-- ==== Sys2Proof/Word.lean ====
section
/-! DEFINITION. The words of the block (00_scope.md R6, R7, R12; 30_encoding.md R60, R62): 32-bit data, the 72-bit bundle, the DividerParams pair. -/

namespace Sys2Proof

/-- The data width of the block: divisor, dividend, quotient, LZC input and multiplier (R6). -/
abbrev Word := BitVec 32

/-- One request or response bundle (R60, R61). Bit 0 is the least significant (R12). -/
abbrev Bundle := BitVec 72

/-- A byte of a platform's memory that holds bundles; the block itself has no memory (R40, R41). -/
abbrev Byte := BitVec 8

/-- A DividerParams value `(sh, mul)` (R15, R25): the shift exponent in its 6-bit field (R7) and the 32-bit multiplier. -/
structure Params where
  sh : BitVec 6
  mul : Word
  deriving DecidableEq, Repr

end Sys2Proof
end

