-- ==== Sys2Proof/Config.lean ====
section
/-! DEFINITION. What the spec leaves to the implementation or to the platform (00_scope.md R8 to R11, 20_memory.md R41). Each constant has no body, so that no proof can see a value of it. -/

namespace Sys2Proof

/-- Parameter `LZC_IMPL` (R8): how the leading-zero count is built. -/
inductive LzcImpl where
  /-- A hardware bit-scan. -/
  | intrinsic
  /-- The portable bisection of R82. -/
  | bisection
  deriving DecidableEq, Repr, Inhabited

/-- Parameter `SYNTH_ORIGIN` (R9): where the params of a DIVU request came from. -/
inductive SynthOrigin where
  /-- A response of the block's SYNTH. -/
  | block
  /-- A constant the host folded ahead of time. -/
  | folded
  deriving DecidableEq, Repr, Inhabited

/-- Parameter `BUNDLE_BYTE_ORDER` (R41): the byte order in which a platform stores bundles. -/
inductive ByteOrder where
  /-- The least significant byte at the lowest address. -/
  | little
  /-- The most significant byte at the lowest address. -/
  | big
  deriving DecidableEq, Repr, Inhabited

/-- `LZC_IMPL` of the built block. No response depends on it (R8, R82). DEDUCED, log entry 11: safe. -/
opaque Config.lzcImpl : LzcImpl

/-- `BUNDLE_BYTE_ORDER` of the platform. The block does not depend on it (R41). DESIGN CHOICE, log entry 12: safe. -/
opaque Config.bundleByteOrder : ByteOrder

/-- `ARBITRATION` (R11, R175), a free value: the `n`-th free choice among the waiting requests. DESIGN CHOICE, log entry 3: safe. -/
opaque Config.arbitration : Nat → Nat

end Sys2Proof
end

