-- ==== Sys2Proof/Syntax.lean ====
section
/-! DEFINITION. The operations a request can select, one constructor per row of the opcode table (30_encoding.md R64). -/

namespace Sys2Proof

/-- The operation of one request, with the operands that operation uses. A field an operation ignores (R65) is no part of it. -/
inductive Instr where
  /-- `op = 00`, `LZC a`: leading-zero count (R81). -/
  | lzc (a : Word)
  /-- `op = 01`, `SYNTH a`: divider parameters for the divisor `a` (R106). -/
  | synth (a : Word)
  /-- `op = 10`, `DIVU a, p`: quotient of `a` by the divisor `p` encodes (R136). -/
  | divu (a : Word) (p : Params)
  /-- `op = 11`: reserved, answered with ILLEGAL_OP; every other field is ignored (R69, R164). -/
  | reserved
  deriving DecidableEq, Repr

end Sys2Proof
end

