-- ==== Sys2Proof/Decode.lean ====
section
/-! DEFINITION. The REQ bundle (30_encoding.md R60, R62 to R66, R68): its fields, the total decoder, the encoder, and the bundle as bytes of a platform's memory (20_memory.md R41). -/

namespace Sys2Proof

/-- The 38-bit PARAMS field `{sh[5:0], mul[31:0]}` (R62). -/
def packParams (p : Params) : BitVec 38 := p.sh ++ p.mul

/-- The params value of a PARAMS field (R62). -/
def unpackParams (f : BitVec 38) : Params :=
  { sh := f.extractLsb' 32 6, mul := f.extractLsb' 0 32 }

/-- The fields of a request (R60). -/
structure ReqFields where
  op : BitVec 2
  a : Word
  p : Params
  deriving DecidableEq, Repr

/-- Operand assembly (R63): every field as it stands, with no extension, scaling or shift; bits 71:34 are one PARAMS field. -/
def reqFields (b : Bundle) : ReqFields :=
  { op := b.extractLsb' 0 2, a := b.extractLsb' 2 32, p := unpackParams (b.extractLsb' 34 38) }

/-- The REQ bundle with the given fields (R60). -/
def reqBundle (f : ReqFields) : Bundle := packParams f.p ++ f.a ++ f.op

/-- The opcode map (R64). -/
def opcode : Instr → BitVec 2
  | .lzc _ => 0b00#2
  | .synth _ => 0b01#2
  | .divu _ _ => 0b10#2
  | .reserved => 0b11#2

/-- Decoding (R64, R66): total, and decided by `REQ[1:0]` alone. -/
def decode (b : Bundle) : Instr :=
  let f := reqFields b
  if f.op = 0b00#2 then .lzc f.a
  else if f.op = 0b01#2 then .synth f.a
  else if f.op = 0b10#2 then .divu f.a f.p
  else .reserved

/-- Encoding (R60, R64), with zeros in the fields the operation ignores (R65 leaves them free; the worked encodings of 30_encoding.md section 6 have zeros). DEDUCED, log entry 15: safe. -/
def encode : Instr → Bundle
  | .lzc a => reqBundle { op := opcode (.lzc a), a := a, p := ⟨0, 0⟩ }
  | .synth a => reqBundle { op := opcode (.synth a), a := a, p := ⟨0, 0⟩ }
  | .divu a p => reqBundle { op := opcode (.divu a p), a := a, p := p }
  | .reserved => reqBundle { op := opcode .reserved, a := 0, p := ⟨0, 0⟩ }

/-- Why a string of bytes or bits is no request. -/
inductive DecodeError where
  /-- Every request is exactly one 72-bit bundle, nine bytes (R68). -/
  | notOneBundle
  deriving DecidableEq, Repr

/-- The bundle of an instruction whose bits are `w` in the opcode table's numbering, every bit from `nbits` up being 0. -/
def tableBundle (nbits w : Nat) : Bundle := BitVec.ofNat 72 (w % 2 ^ nbits)

/-- The instruction the decoder reads from the bits `w`, numbered as the opcode table numbers them. More bits than one bundle are no request (R68). DEDUCED, log entry 10: safe. -/
def decodeTableWord (nbits w : Nat) : Option Instr :=
  if nbits ≤ 72 then some (decode (tableBundle nbits w)) else none

/-- The number with the given bytes, the least significant first. -/
def natOfBytes : List Byte → Nat
  | [] => 0
  | b :: bs => b.toNat + 256 * natOfBytes bs

/-- The `k` low bytes of a number, the least significant first. -/
def bytesOfNat : Nat → Nat → List Byte
  | 0, _ => []
  | k + 1, n => BitVec.ofNat 8 n :: bytesOfNat k (n / 256)

/-- A bundle as the nine bytes of a platform's memory, the lowest address first (R41, `BUNDLE_BYTE_ORDER`). -/
def storeBundle (o : ByteOrder) (b : Bundle) : List Byte :=
  match o with
  | .little => bytesOfNat 9 b.toNat
  | .big => (bytesOfNat 9 b.toNat).reverse

/-- The bundle that nine bytes of a platform's memory hold; any other length is no request (R68). -/
def loadBundle (o : ByteOrder) (bs : List Byte) : Except DecodeError Bundle :=
  if bs.length = 9 then
    match o with
    | .little => .ok (BitVec.ofNat 72 (natOfBytes bs))
    | .big => .ok (BitVec.ofNat 72 (natOfBytes bs.reverse))
  else .error .notOneBundle

/-- Decoding of bytes, total: one bundle decodes (R66), anything else is rejected by name (R68). -/
def decodeBytes (o : ByteOrder) (bs : List Byte) : Except DecodeError Instr :=
  match loadBundle o bs with
  | .ok b => .ok (decode b)
  | .error e => .error e

end Sys2Proof
end

