-- ==== Sys2Proof/Machine/State.lean ====
section
/-! DEFINITION. The state of the model. The block holds no state (10_state.md R20 to R24, R27, R29, R30); what stands here is what the spec says of its interface: the requests waiting, the responses returned, the fault record of a host run (60_exceptions.md R170, R175; 70_reset_and_hazards.md R190 to R192). -/

namespace Sys2Proof.Machine

/-- The non-OK statuses (R160). -/
inductive ErrorStatus where
  /-- SYNTH with divisor 0 (R162). -/
  | domainError
  /-- DIVU with params that are not admissible (R163). -/
  | invalidParams
  /-- The reserved opcode (R164). -/
  | illegalOp
  deriving DecidableEq, Repr

/-- The status of a response (R160): exactly one of four. -/
inductive Status where
  | ok
  | error (e : ErrorStatus)
  deriving DecidableEq, Repr

/-- A response (R61). A field that carries no value is `none` (R67): the model gives it no value. -/
structure Response where
  status : Status
  r : Option Word
  p : Option Params
  deriving DecidableEq, Repr

/-- Who sent a request, and which request it is: a response answers exactly one request and goes to the requester that sent it (R43, R161, R175). The tag is the model's own count (DESIGN CHOICE, log entry 8: unsafe, no response depends on it). -/
structure Ticket where
  requester : Nat
  tag : Nat
  deriving DecidableEq, Repr

/-- A request as sent: one REQ bundle (R60). -/
structure Request where
  ticket : Ticket
  bundle : Bundle
  deriving DecidableEq, Repr

/-- A response together with the request it answers (R43). -/
structure Answer where
  request : Request
  rsp : Response
  deriving DecidableEq, Repr

/-- A non-OK response as the model of a host run records it (R170). It holds no operand and no request bits (R161). -/
structure RunFault where
  ticket : Ticket
  cause : ErrorStatus
  deriving DecidableEq, Repr

/-- What a host read can fault with. No step of the block raises one: every request is answered (R66, R161). -/
inductive Fault where
  /-- A host reads the response to a request that has none: before the first request after reset, or while the request waits (R191, I9). Raised by `State.responseTo`. Safe: the model stops where the wire would show any bits. -/
  | noResponse
  /-- A host waits for the response to a request that a reset cut off: it never comes (R192, I10). Raised by `State.responseTo`. Safe. -/
  | requesterStuck
  /-- A host reads the result field of a response whose `r` carries no value (R67, I4). Raised by `Response.readR`. Safe. -/
  | noResultValue
  /-- A host reads the params field of a response whose `p` carries no value (R67, I4). Raised by `Response.readP`. Safe. -/
  | noParamsValue
  deriving DecidableEq, Repr

/-- What is refused. No step of the block refuses: decoding is total (R66). All but the first are the assembler's (R70, R71). -/
inductive Refusal where
  /-- An instruction without a meaning, by its mnemonic. Raised by no arm of this model. Safe. -/
  | notModelled (mnemonic : String)
  /-- `DIVC a, #0` has no expansion: no params stand for divisor 0 (R71, R139, I2). Raised by the assembler. Safe. -/
  | divisorZero
  /-- A numeral that does not fit its field (R70, R60). Raised by the assembler. Safe. -/
  | numeralTooWide
  /-- A host name that is bound to no value: its response has not come back (R70, R193). Raised by the assembler. Safe. -/
  | unboundName
  /-- A host name that holds a value of the other kind, a word for params or params for a word (R70). Raised by the assembler. Safe. -/
  | wrongKind
  deriving DecidableEq, Repr

/-- The model's state: plain data, none of it inside the block (R20). No response depends on any of it. -/
structure State where
  /-- Requests sent and not yet answered (R175, R198), in the order they were sent. -/
  waiting : List Request
  /-- The request the block took last: the response goes to its requester (R43, R175). The model's own field (DESIGN CHOICE, log entry 2: its reset value is unsafe). -/
  serving : Request
  /-- The response side: the responses returned since reset, oldest first (R61, R191). -/
  answers : List Answer
  /-- The recorded faults of host runs, never cleared (R170). -/
  faults : List RunFault
  /-- Requests pending when a reset came: never answered (R192). -/
  stuck : List Request
  /-- How many requests were sent: the next tag. The model's own field (DESIGN CHOICE, log entry 8: its reset value is unsafe). -/
  issued : Nat
  /-- How many free choices of ARBITRATION were taken. The model's own field (DESIGN CHOICE, log entry 3: its reset value is unsafe). -/
  draws : Nat
  deriving DecidableEq, Repr

/-- Right after reset: nothing waits, no response exists, nothing is recorded (R190, R191). The fields `serving`, `issued` and `draws` are the model's own; their values here are DESIGN CHOICES (log entries 2, 8, 3), and no statement rests on them. -/
def State.reset : State :=
  { waiting := []
    serving := { ticket := { requester := 0, tag := 0 }, bundle := 0#72 }
    answers := []
    faults := []
    stuck := []
    issued := 0
    draws := 0 }

end Sys2Proof.Machine
end

