-- ==== Sys2Proof/Machine/Flags.lean ====
section
/-! DEFINITION. The block has no flags (10_state.md R23). The one status it produces is the status field of a response: its codes (60_exceptions.md R160). -/

namespace Sys2Proof.Machine

/-- The status code of a response (R160). -/
def statusCode : Status → BitVec 2
  | .ok => 0b00#2
  | .error .domainError => 0b01#2
  | .error .invalidParams => 0b10#2
  | .error .illegalOp => 0b11#2

/-- The status a code names (R160): each of the four codes names one. -/
def statusOfCode (c : BitVec 2) : Status :=
  if c = 0b00#2 then .ok
  else if c = 0b01#2 then .error .domainError
  else if c = 0b10#2 then .error .invalidParams
  else .error .illegalOp

end Sys2Proof.Machine
end

