-- ==== Sys2Proof/Machine/Operands.lean ====
section
/-! DEFINITION. The params operand of DIVU: its admission check and its regime (10_state.md R26, 42_divider.md R131, R132), and the bit-level helpers of the notation (00_scope.md R13). -/

namespace Sys2Proof.Machine

/-- `Admissible(p)` (R26): `p.sh ≤ 32`, and not `p.sh = 0` with `p.mul ≠ 0`. -/
def admissible (p : Params) : Bool :=
  decide (p.sh.toNat ≤ 32) && !(p.sh == 0#6 && p.mul != 0#32)

/-- The regimes of DIVU (R132). -/
inductive Regime where
  /-- Regime A: `sh = 32`, the divisor is at least `0x80000001` (R133). -/
  | compare
  /-- Regime B: `(0, 0)`, the divisor is 1 (R134). -/
  | identity
  /-- Regime C: the multiply, add and shift (R135). -/
  | general
  deriving DecidableEq, Repr

/-- The dispatch of R132, in its order: the first test that holds is taken. -/
def regime (p : Params) : Regime :=
  if p.sh = 32#6 then .compare
  else if p.mul = 0#32 ∧ p.sh = 0#6 then .identity
  else .general

/-- The exact 64-bit product of two words (R135). -/
def product (x y : Word) : BitVec 64 := x.setWidth 64 * y.setWidth 64

/-- `hi32(p)`: the upper 32 bits of a 64-bit product (R13). -/
def hi32 (p : BitVec 64) : Word := p.extractLsb' 32 32

/-- `(d & ((d - 1) mod 2^32)) = 0`, the test of step 3 of SYNTH (R102). -/
def isPowerOfTwo (d : Word) : Bool := d &&& (d - 1#32) == 0#32

end Sys2Proof.Machine
end

