-- ==== Sys2Proof/Machine/Ops.lean ====
section
/-! DEFINITION. The operations every meaning shares: making a response, raising a status (the block's only exception, 60_exceptions.md R161, R168), returning a response to its requester, taking the next request, and what a host does at the interface. -/

namespace Sys2Proof.Machine

/-- An OK response that carries a result (R67: LZC and DIVU). -/
def Response.result (r : Word) : Response := { status := .ok, r := some r, p := none }

/-- An OK response that carries params (R67: SYNTH). -/
def Response.params (p : Params) : Response := { status := .ok, r := none, p := some p }

/-- `raise <Status>` (R14, R161): the response has that status and no data field carries a value. -/
def Response.raise (e : ErrorStatus) : Response := { status := .error e, r := none, p := none }

/-- What the model of a host run records for the status of a response to the request with the given ticket (R170): nothing for OK. -/
def Status.runFaults (t : Ticket) : Status → List RunFault
  | .ok => []
  | .error e => [{ ticket := t, cause := e }]

/-- Record a non-OK response as a fault of the host run; what is recorded stays (R170). -/
def State.record (s : State) (st : Status) : State :=
  { s with faults := s.faults ++ st.runFaults s.serving.ticket }

/-- The response side with one more response, to the request being served (R43). -/
def State.withAnswer (s : State) (rsp : Response) : State :=
  { s with answers := s.answers ++ [{ request := s.serving, rsp := rsp }] }

/-- Return the response to the request being served (R43, R175). For a non-OK status this is the whole of "taking an exception" on this block: no state is saved and nothing is entered or returned from (R161, R168, R169). DEDUCED, log entry 7: safe. -/
def State.deliver (s : State) (rsp : Response) : State :=
  (s.withAnswer rsp).record rsp.status

/-- Take the waiting request at position `k`, whole (R43). -/
def State.takeAt (s : State) (k : Nat) : Option State :=
  match s.waiting[k]? with
  | none => none
  | some q => some { s with waiting := s.waiting.eraseIdx k, serving := q }

/-- One free choice of ARBITRATION is taken (R11). -/
def State.draw (s : State) : State := { s with draws := s.draws + 1 }

/-- Take the next request: the only one waiting, or the one a free choice names (R11, R175). -/
def State.takeNext (s : State) : Option State :=
  match s.waiting with
  | [] => none
  | [q] => some { s with waiting := [], serving := q }
  | _ :: _ :: _ => s.draw.takeAt (Config.arbitration s.draws % s.waiting.length)

/-- A host sends a request (R60, R175); it waits. -/
def State.send (s : State) (requester : Nat) (b : Bundle) : State :=
  { s with
    waiting := s.waiting ++ [{ ticket := { requester := requester, tag := s.issued }, bundle := b }]
    issued := s.issued + 1 }

/-- Reset comes (R190 to R192): what waits is never answered, and the response side carries no response. The block has nothing to reset; the recorded faults of host runs stay (R170). DEDUCED, log entry 6: unsafe where a channel keeps its last response. -/
def State.resetEvent (s : State) : State :=
  { State.reset with
    serving := s.serving
    faults := s.faults
    stuck := s.stuck ++ s.waiting
    issued := s.issued
    draws := s.draws }

/-- The state in which the request `b` of requester 0 is the only one waiting, so that the next step serves it. DESIGN CHOICE, log entry 9: safe. -/
def State.place (s : State) (b : Bundle) : State :=
  { s with
    waiting := [{ ticket := { requester := 0, tag := s.issued }, bundle := b }]
    issued := s.issued + 1 }

/-- What can come from outside the block, always between two steps (R43). -/
inductive HostEvent where
  /-- A requester sends a bundle (R175). -/
  | send (requester : Nat) (b : Bundle)
  /-- Reset (R190 to R192). -/
  | reset
  deriving DecidableEq, Repr

/-- The effect of an event from outside. -/
def State.apply (s : State) : HostEvent → State
  | .send requester b => s.send requester b
  | .reset => s.resetEvent

/-- A host reads the response to one of its requests (R43, R191, R192). -/
def State.responseTo (s : State) (t : Ticket) : Except Fault Response :=
  match s.answers.find? (fun ans => ans.request.ticket == t) with
  | some ans => .ok ans.rsp
  | none => if s.stuck.any (fun q => q.ticket == t) then .error .requesterStuck else .error .noResponse

/-- A host reads the result field; where it carries no value this is a fault, not a zero (R67, I4). -/
def Response.readR (rsp : Response) : Except Fault Word :=
  match rsp.r with
  | some r => .ok r
  | none => .error .noResultValue

/-- A host reads the params field; where it carries no value this is a fault, not a zero (R67, I4). -/
def Response.readP (rsp : Response) : Except Fault Params :=
  match rsp.p with
  | some p => .ok p
  | none => .error .noParamsValue

end Sys2Proof.Machine
end

