-- ==== Sys2Proof/Machine/Divider.lean ====
section
/-! DEFINITION. DIVU (42_divider.md R130 to R136, R138). -/

namespace Sys2Proof.Machine

/-- Regime A (R133). -/
def divideCompare (v mul : Word) : Word := if mul ≤ v then 1#32 else 0#32

/-- `t = ((v - q) >> 1) + q` (R135). -/
def divideMean (v q : Word) : Word := ((v - q) >>> 1) + q

/-- Regime C (R135). -/
def divideGeneral (v : Word) (p : Params) : Word :=
  divideMean v (hi32 (product p.mul v)) >>> (p.sh.toNat - 1)

/-- The quotient of the regime R132 picks. -/
def quotient (v : Word) (p : Params) : Word :=
  match regime p with
  | .compare => divideCompare v p.mul
  | .identity => v
  | .general => divideGeneral v p

/-- `DIVU(v, p)` (R136): the structural check of R131, then the quotient. -/
def divide (v : Word) (p : Params) : Except ErrorStatus Word :=
  if admissible p then .ok (quotient v p) else .error .invalidParams

/-- The response to `DIVU a, p` (R136). -/
def divuResponse (a : Word) (p : Params) : Response :=
  match divide a p with
  | .ok r => Response.result r
  | .error e => Response.raise e

/-- `DIVU a, p` (R136). -/
def execDivu (a : Word) (p : Params) (s : State) : Host.Outcome State Fault Refusal :=
  .next (s.deliver (divuResponse a p))

end Sys2Proof.Machine
end

