-- ==== Sys2Proof/Machine/LeadingZeroCount.lean ====
section
/-! DEFINITION. LZC (40_leading_zero_count.md): the count (R80), the operation (R81), and the bisection that must agree with it (R82). -/

namespace Sys2Proof.Machine

/-- The loop of R80 with the bits below `i` still to look at and `n` zeros counted. -/
def lzcLoop (x : Word) : Nat → Nat → Nat
  | 0, n => n
  | i + 1, n => if x.getLsbD i then n else lzcLoop x i (n + 1)

/-- `LZC(x)` (R80): zero bits from the most significant bit down; 32 for zero. -/
def lzc (x : Word) : Nat := lzcLoop x 32 0

/-- One halving step of the bisection (R82): if the top `w` bits are zero, count them and shift them out. -/
def bisectStep (w : Nat) (nx : Nat × Word) : Nat × Word :=
  if nx.2 >>> (32 - w) = 0#32 then (nx.1 + w, nx.2 <<< w) else nx

/-- The bisection of R82, its test for zero first. -/
def lzcBisection (x : Word) : Nat :=
  if x = 0#32 then 32
  else (bisectStep 1 (bisectStep 2 (bisectStep 4 (bisectStep 8 (bisectStep 16 (0, x)))))).1

/-- LZC as a block with the given `LZC_IMPL` computes it (R8, R82). The bit-scan's contract is the function of R80. -/
def lzcBy : LzcImpl → Word → Nat
  | .intrinsic, x => lzc x
  | .bisection, x => lzcBisection x

/-- The response to `LZC a` (R81). -/
def lzcResponse (a : Word) : Response := Response.result (BitVec.ofNat 32 (lzc a))

/-- `LZC a` (R81). -/
def execLzc (a : Word) (s : State) : Host.Outcome State Fault Refusal := .next (s.deliver (lzcResponse a))

end Sys2Proof.Machine
end

