-- ==== Sys2Proof/Machine/Reserved.lean ====
section
/-! DEFINITION. The reserved opcode `11` (30_encoding.md R69, 60_exceptions.md R164). -/

namespace Sys2Proof.Machine

/-- The response to a request with `op = 11` (R164). -/
def reservedResponse : Response := Response.raise .illegalOp

/-- A request with `op = 11` (R164): the response is ILLEGAL_OP with no data, whatever the other fields hold. -/
def execReserved (s : State) : Host.Outcome State Fault Refusal := .next (s.deliver reservedResponse)

end Sys2Proof.Machine
end

