-- ==== Sys2Proof/Machine/Synthesizer.lean ====
section
/-! DEFINITION. SYNTH (41_param_synthesizer.md R100 to R106). -/

namespace Sys2Proof.Machine

/-- Step 2 (R102): the position of the highest set bit of `d`. -/
def synthBase (d : Word) : Nat := 31 - lzc d

/-- Step 4 (R102): the shift exponent. -/
def synthShift (d : Word) : Nat := synthBase d + (if isPowerOfTwo d then 0 else 1)

/-- Step 6 (R104): the numerator, `2^(32+sh) + d - 1`. -/
def synthNum (sh : Nat) (d : Word) : Nat := 2 ^ (32 + sh) + d.toNat - 1

/-- Step 6 (R104): the full multiplier, `ceil(2^(32+sh) / d)`. -/
def synthFull (sh : Nat) (d : Word) : Nat := synthNum sh d / d.toNat

/-- Steps 5 and 6 (R103, R104): the stored multiplier, the divisor itself or the low 32 bits of the full one. -/
def synthMul (sh : Nat) (d : Word) : Word := if sh = 32 then d else BitVec.ofNat 32 (synthFull sh d)

/-- `SYNTH(d)` (R106): no params for `d = 0` (R101), else the pair. -/
def synthesize (d : Word) : Except ErrorStatus Params :=
  if d = 0#32 then .error .domainError
  else .ok { sh := BitVec.ofNat 6 (synthShift d), mul := synthMul (synthShift d) d }

/-- The response to `SYNTH a` (R106). -/
def synthResponse (a : Word) : Response :=
  match synthesize a with
  | .ok p => Response.params p
  | .error e => Response.raise e

/-- `SYNTH a` (R106). -/
def execSynth (a : Word) (s : State) : Host.Outcome State Fault Refusal := .next (s.deliver (synthResponse a))

/-- `Synthesized(p)` (R26): `p` is `SYNTH(d)` for some `d` in `1..0xFFFFFFFF`. -/
def Synthesized (p : Params) : Prop := ∃ d : Word, synthesize d = .ok p

end Sys2Proof.Machine
end

