-- ==== Sys2Proof/Machine/Dispatch.lean ====
section
/-! DEFINITION. One arm per row of the opcode table (30_encoding.md R64). -/

namespace Sys2Proof.Machine

def exec (i : Instr) (s : State) : Host.Outcome State Fault Refusal :=
  match i with
  | .lzc a => Sys2Proof.Machine.execLzc a s
  | .synth a => Sys2Proof.Machine.execSynth a s
  | .divu a p => Sys2Proof.Machine.execDivu a p s
  | .reserved => Sys2Proof.Machine.execReserved s

end Sys2Proof.Machine
end

