-- ==== Sys2Proof/Machine/Step.lean ====
section
/-! DEFINITION. One step: one request is taken and answered, as one indivisible transaction (20_memory.md R43, 70_reset_and_hazards.md R197). -/

namespace Sys2Proof.Machine

/-- The block takes the next waiting request, decodes it and runs it. With no request waiting it stays as it is (R190; DESIGN CHOICE, log entry 4: safe). -/
def step (s : State) : Host.Outcome State Fault Refusal :=
  match s.takeNext with
  | none => .next s
  | some t => exec (decode t.serving.bundle) t

/-- The block takes the waiting request at position `k`, any of them (R11, R175), and runs it; with none there it stays as it is. -/
def serveAt (k : Nat) (s : State) : Host.Outcome State Fault Refusal :=
  match s.takeAt k with
  | none => .next s
  | some t => exec (decode t.serving.bundle) t

/-- `s` with the request whose bits are `w` (bit 0 the least significant of the bundle, every bit from `nbits` up zero) as the only one waiting: the next step serves it. DESIGN CHOICE, log entry 9: safe. -/
def State.withFetchWord (s : State) (nbits w : Nat) : State := s.place (tableBundle nbits w)

end Sys2Proof.Machine
end

