-- ==== Sys2Proof/Machine/Respond.lean ====
section
/-! DEFINITION. The response as a pure function of the request (00_scope.md R3, 10_state.md R20), and the RSP bundle on the wire (30_encoding.md R61, R67). -/

namespace Sys2Proof.Machine

/-- The response to a request (R3, R67): a function of the request and of nothing else (R20). -/
def respond : Instr → Response
  | .lzc a => lzcResponse a
  | .synth a => synthResponse a
  | .divu a p => divuResponse a p
  | .reserved => reservedResponse

/-- The RSP bundle of a response (R61). Where a field carries no value the block may drive any bits (R67): those of `undriven`, in the same places. DEDUCED, log entry 5: safe. -/
def Response.wire (undriven : Bundle) (rsp : Response) : Bundle :=
  packParams (rsp.p.getD (unpackParams (undriven.extractLsb' 34 38)))
    ++ rsp.r.getD (undriven.extractLsb' 2 32) ++ statusCode rsp.status

/-- What the requester that sent `i` may read from an RSP bundle: the status, and the fields R67 gives a value for that operation and status. -/
def Response.ofWire (i : Instr) (b : Bundle) : Response :=
  match statusOfCode (b.extractLsb' 0 2), i with
  | .error e, _ => Response.raise e
  | .ok, .lzc _ => Response.result (b.extractLsb' 2 32)
  | .ok, .synth _ => Response.params (unpackParams (b.extractLsb' 34 38))
  | .ok, .divu _ _ => Response.result (b.extractLsb' 2 32)
  | .ok, .reserved => { status := .ok, r := none, p := none }

end Sys2Proof.Machine
end

