-- ==== Sys2Proof/Machine/Assembler.lean ====
section
/-! DEFINITION. The host's side of a request: the assembler's lines and names (30_encoding.md R70), the pseudo-instruction DIVC (R71), and params folded ahead of time (41_param_synthesizer.md R107, R108). None of it is inside the block. What R70 leaves open is a DESIGN CHOICE, log entry 14: safe. -/

namespace Sys2Proof.Machine

/-- A host name, as its characters. -/
abbrev HostName := List Char

/-- A value a host name can be bound to (R70). -/
inductive HostValue where
  /-- A 32-bit value, such as an LZC or DIVU result. -/
  | word (w : Word)
  /-- A SYNTH result. -/
  | params (p : Params)
  deriving DecidableEq, Repr

/-- The host's names and what they hold; a later binding of a name hides an earlier one. -/
abbrev HostNames := List (HostName × HostValue)

/-- The operand `<a>` (R70): a numeral, or a host name that holds a 32-bit value. -/
inductive AsmArg where
  | num (n : Nat)
  | name (x : HostName)
  deriving DecidableEq, Repr

/-- The operand `<p>` (R70): a literal pair, or a host name bound to an earlier SYNTH result. -/
inductive AsmParams where
  | pair (sh mul : Nat)
  | name (x : HostName)
  deriving DecidableEq, Repr

/-- A line's operation (R70), the pseudo-instruction among them (R71). -/
inductive AsmOp where
  | lzc (a : AsmArg)
  | synth (a : AsmArg)
  | divu (a : AsmArg) (p : AsmParams)
  | divc (a : AsmArg) (d : Nat)
  deriving DecidableEq, Repr

/-- A line: an operation, and the host name its result is bound to, if any (R70). -/
structure AsmLine where
  bind : Option HostName
  op : AsmOp
  deriving DecidableEq, Repr

/-- The value of `<a>` (R70): an unsigned 32-bit numeral, or what the name holds. -/
def AsmArg.value (names : HostNames) : AsmArg → Except Refusal Word
  | .num n => if n < 2 ^ 32 then .ok (BitVec.ofNat 32 n) else .error .numeralTooWide
  | .name x =>
    match names.lookup x with
    | some (.word w) => .ok w
    | some (.params _) => .error .wrongKind
    | none => .error .unboundName

/-- The value of `<p>` (R70): a pair whose numerals fit their fields (R60), or what the name holds. A name whose SYNTH response has not come back holds nothing (R193). -/
def AsmParams.value (names : HostNames) : AsmParams → Except Refusal Params
  | .pair sh mul =>
    if sh < 2 ^ 6 ∧ mul < 2 ^ 32 then .ok { sh := BitVec.ofNat 6 sh, mul := BitVec.ofNat 32 mul }
    else .error .numeralTooWide
  | .name x =>
    match names.lookup x with
    | some (.params p) => .ok p
    | some (.word _) => .error .wrongKind
    | none => .error .unboundName

/-- The params a host folds ahead of time for a divisor it knows (R108), by the closed form of R107: `sh = ceil(log2 d)`, and `mul` by the range of `d`. -/
def foldParams (d : Nat) : Params :=
  if d = 1 then { sh := 0#6, mul := 0#32 }
  else
    let sh := Nat.log2 (d - 1) + 1
    if 0x80000001 ≤ d then { sh := 32#6, mul := BitVec.ofNat 32 d }
    else { sh := BitVec.ofNat 6 sh, mul := BitVec.ofNat 32 ((2 ^ (32 + sh) + (d - 1)) / d - 2 ^ 32) }

/-- The params a host has for a divisor, by where they come from (R9): the block's SYNTH response, or a folded constant. -/
def paramsFor (origin : SynthOrigin) (d : Word) : Option Params :=
  match origin with
  | .block => (synthResponse d).p
  | .folded => if d = 0#32 then none else some (foldParams d.toNat)

/-- The divisor of a DIVC (R71): the assembler refuses 0, and a numeral that is no 32-bit divisor. -/
def divcDivisor (d : Nat) : Except Refusal Nat :=
  if d = 0 then .error .divisorZero
  else if d < 2 ^ 32 then .ok d
  else .error .numeralTooWide

/-- The first expansion of `DIVC <a>, #<d>` (R71): a DIVU with the folded pair. -/
def expandFolded (a : AsmArg) (d : Nat) : Except Refusal AsmOp :=
  match divcDivisor d with
  | .ok d => .ok (.divu a (.pair (foldParams d).sh.toNat (foldParams d).mul.toNat))
  | .error e => .error e

/-- The second expansion of `DIVC <a>, #<d>` (R71): `P = SYNTH d`, then `DIVU a, P`, for a host name `P` of the host's choice. -/
def expandUnfolded (bind : Option HostName) (P : HostName) (a : AsmArg) (d : Nat) : Except Refusal (List AsmLine) :=
  match divcDivisor d with
  | .ok d => .ok [{ bind := some P, op := .synth (.num d) }, { bind := bind, op := .divu a (.name P) }]
  | .error e => .error e

/-- The instruction of a `DIVU <a>, <p>` line. -/
def assembleDivu (names : HostNames) (a : AsmArg) (p : AsmParams) : Except Refusal Instr :=
  match a.value names, p.value names with
  | .ok v, .ok q => .ok (.divu v q)
  | .error e, _ => .error e
  | .ok _, .error e => .error e

/-- The instruction of a line's operation (R70), DIVC by its folded expansion (R71). -/
def AsmOp.assemble (names : HostNames) : AsmOp → Except Refusal Instr
  | .lzc a => (a.value names).map .lzc
  | .synth a => (a.value names).map .synth
  | .divu a p => assembleDivu names a p
  | .divc a d =>
    match expandFolded a d with
    | .ok (.divu a' p) => assembleDivu names a' p
    | .ok _ => .error .wrongKind
    | .error e => .error e

/-- The value a response binds to a host name (R70): the field that carries a value. A non-OK response carries none, and reading it is a fault (R67, I4). -/
def Response.hostValue (rsp : Response) : Except Fault HostValue :=
  match rsp.r, rsp.p with
  | some w, _ => .ok (.word w)
  | none, some p => .ok (.params p)
  | none, none => .error .noResultValue

/-- The host's names after a line's response has come back (R70). -/
def HostNames.bindResponse (names : HostNames) (bind : Option HostName) (rsp : Response) : Except Fault HostNames :=
  match bind with
  | none => .ok names
  | some x => rsp.hostValue.map fun v => (x, v) :: names

end Sys2Proof.Machine
end

