-- ==== Sys2Proof/Safety.lean ====
section
/-! DEFINITION. What claims are stated in: the requests a dutiful host sends (70_reset_and_hazards.md R193), what can happen next, what holds of every state a run reaches, and the fairness of a run (70_reset_and_hazards.md R198). -/

namespace Sys2Proof.Machine

/-- A request within the source's contract (R130, R193): LZC of anything, SYNTH of a nonzero divisor (R100), DIVU with synthesized params (R130). -/
def Dutiful : Instr → Prop
  | .lzc _ => True
  | .synth a => a ≠ 0#32
  | .divu _ p => Synthesized p
  | .reserved => False

/-- What can happen next: the block serves some waiting request, any of them (R11, R175), or something comes from outside. -/
inductive Transition (s t : State) : Prop where
  /-- The block serves the waiting request at position `k`. -/
  | serve (k : Nat) (h : serveAt k s = .next t)
  /-- A requester sends, or reset comes. -/
  | host (e : HostEvent) (h : t = s.apply e)
  /-- The block takes one step of its own, or has nothing to serve. -/
  | step (h : step s = .next t)

/-- Every request the interface still knows of: waiting, cut off by a reset, or answered. -/
def State.known (s : State) : List Request := s.waiting ++ s.stuck ++ s.answers.map Answer.request

/-- What holds of every state a run reaches. -/
structure State.Inv (s : State) : Prop where
  /-- Every response is the function of its own request that the rules give (R3, R20, R43). -/
  answered : ∀ ans ∈ s.answers, ans.rsp = respond (decode ans.request.bundle)
  /-- Every tag given out is below the next one. -/
  fresh : ∀ q ∈ s.known, q.ticket.tag < s.issued
  /-- No request is in two places: it waits, or is cut off, or is answered once (R43, R192). -/
  distinct : (s.known.map fun q => q.ticket.tag).Nodup
  /-- Every non-OK response is recorded as a fault of its host's run (R170). -/
  recorded : ∀ ans ∈ s.answers, ∀ e, ans.rsp.status = .error e →
    { ticket := ans.request.ticket, cause := e } ∈ s.faults

/-- An infinite run: what happens, moment by moment, from any state. -/
def Run (f : Nat → State) : Prop := ∀ n, Transition (f n) (f (n + 1))

/-- The fairness assumption of R198: no request waits forever. DEDUCED, log entry 13: unsafe, a premise of one statement only. -/
def Fair (f : Nat → State) : Prop := ∀ n, ∀ q ∈ (f n).waiting, ∃ m, n ≤ m ∧ q ∉ (f m).waiting

/-- The host run of a requester has no recorded fault (R170). -/
def State.Faultless (s : State) (requester : Nat) : Prop := ∀ x ∈ s.faults, x.ticket.requester ≠ requester

end Sys2Proof.Machine
end

