-- ==== Sys2Proof/WellFormed.lean ====
section
/-! DEFINITION. Which instructions use no reserved encoding (30_encoding.md R69). The decoder and the machine take the others too: each has its own answer (R163, R164), and no statement about decoding or stepping leaves them out. DESIGN CHOICE, log entry 17: safe. -/

namespace Sys2Proof

/-- A DIVU params operand in a reserved encoding: `p.sh` in 33..63, or `p.sh = 0` with `p.mul ≠ 0` (R69). -/
def Params.reservedEncoding (p : Params) : Bool :=
  decide (33 ≤ p.sh.toNat) || (p.sh == 0#6 && p.mul != 0#32)

/-- The instruction uses no reserved encoding (R69): its opcode is not `11`, and a DIVU's params are not reserved. -/
def Instr.wellFormed : Instr → Bool
  | .lzc _ => true
  | .synth _ => true
  | .divu _ p => !p.reservedEncoding
  | .reserved => false

end Sys2Proof
end

