-- ==== Sys2Proof/Certificates/Slice0/Obligations.lean ====
section
/-! DEFINITION. The statements for the provers. -/

open Sys2Proof Sys2Proof.Machine

/-- R191: no response can be read after reset, of any kind, until a request has been served; sending one changes nothing of that. -/
def Obligations.ResetLeavesNoResponse : Prop :=
  State.reset.answers = [] ∧ (∀ k, State.reset.responseTo k = .error .noResponse) ∧
  ∀ s : State, s.resetEvent.answers = [] ∧ (∀ k rsp, s.resetEvent.responseTo k ≠ .ok rsp) ∧
    ∀ n b, (s.send n b).answers = s.answers

/-- R190: right after reset, the first request sent is served by the next step, by the same rules as every later one. -/
def Obligations.ResetReadyForAnyRequest : Prop :=
  ∀ (s : State) (n : Nat) (b : Bundle), s = State.reset ∨ (∃ s₀ : State, s = s₀.resetEvent) →
    ∃ t, step (s.send n b) = .next t ∧ t.waiting = [] ∧
      t.answers = [{ request := { ticket := { requester := n, tag := s.issued }, bundle := b }, rsp := respond (decode b) }]

/-- R192: what waits when reset comes is never answered, whatever comes after; its requester is stuck. -/
def Obligations.ResetLeavesPendingUnanswered : Prop :=
  ∀ (s t : State) (q : Request), s.Inv → q ∈ s.waiting → Relation.ReflTransGen Transition s.resetEvent t →
    q ∈ t.stuck ∧ (∀ ans ∈ t.answers, ans.request.ticket ≠ q.ticket) ∧
      t.responseTo q.ticket = .error .requesterStuck

/-- A step runs the decoded request: with nothing waiting it stays (log entry 4); else it takes one waiting request and is exec of what that decodes to. Only the count of free choices may move besides (log entry 3). -/
def Obligations.StepRunsDecodedRequest : Prop :=
  (∀ s : State, s.waiting = [] → step s = .next s) ∧
  ∀ s : State, s.waiting ≠ [] → ∃ k q d, s.waiting[k]? = some q ∧
    step s = exec (decode q.bundle) { s with waiting := s.waiting.eraseIdx k, serving := q, draws := d }

/-- R43, R175: a step answers exactly one waiting request, whole, with that request's own response, and keeps the rest waiting. -/
def Obligations.StepAnswersExactlyOneRequest : Prop :=
  ∀ s : State, s.waiting ≠ [] → ∃ k q t, s.waiting[k]? = some q ∧ step s = .next t ∧
    t.waiting = s.waiting.eraseIdx k ∧
    t.answers = s.answers ++ [{ request := q, rsp := respond (decode q.bundle) }] ∧
    t.stuck = s.stuck ∧ t.issued = s.issued

/-- R66, R161, R168: nothing stops the block: every instruction answers a next state (an error too: the model's reading of R161 and R170, log entry 7), and so do every step and the service of every position; where nothing waits, at all or there, that is the state as it was (the model's choice, log entry 4). -/
def Obligations.BlockNeverStops : Prop :=
  (∀ i s, ∃ t, exec i s = .next t) ∧ (∀ s, ∃ t, step s = .next t) ∧ ∀ k s, ∃ t, serveAt k s = .next t

/-- The state right after reset meets the invariant. -/
def Obligations.ResetMeetsInv : Prop := State.reset.Inv

/-- Every step keeps the invariant: responses are those of their own requests, no request is answered twice, errors are recorded. -/
def Obligations.StepKeepsInv : Prop :=
  ∀ s t : State, s.Inv → step s = .next t → t.Inv

/-- So do serving any waiting request, in any order, and whatever comes from outside. -/
def Obligations.AnyOrderAndHostEventsKeepInv : Prop :=
  ∀ s : State, s.Inv → (∀ k t, serveAt k s = .next t → t.Inv) ∧ ∀ e, (s.apply e).Inv

/-- Decoding an encoded instruction gives it back, whatever its operands. -/
def Obligations.DecodeEncodeAgree : Prop := ∀ i : Instr, decode (encode i) = i

/-- R65: a field an operation ignores has no effect on the response. LZC and SYNTH read bits 33:2 and ignore bits 71:34. -/
def Obligations.IgnoredFieldsHaveNoEffect : Prop :=
  (∀ b b' : Bundle, b.extractLsb' 0 34 = b'.extractLsb' 0 34 → b.extractLsb' 0 2 ≠ 0b10#2 →
    respond (decode b) = respond (decode b')) ∧
  (∀ b : Bundle, b.extractLsb' 0 2 = 0b00#2 → decode b = .lzc (b.extractLsb' 2 32)) ∧
  (∀ b : Bundle, b.extractLsb' 0 2 = 0b01#2 → decode b = .synth (b.extractLsb' 2 32)) ∧
  ∀ b : Bundle, b.extractLsb' 0 2 = 0b10#2 → ∃ p, decode b = .divu (b.extractLsb' 2 32) p

/-- R63, R66: every bundle decodes to exactly one of the four rows, by bits 1:0 alone, with its operands taken as they stand; the reserved row answers ILLEGAL_OP. -/
def Obligations.EveryBundleDecodes : Prop :=
  respond .reserved = { status := .error .illegalOp, r := none, p := none } ∧ ∀ b : Bundle,
    (b.extractLsb' 0 2 = 0b00#2 → decode b = .lzc (b.extractLsb' 2 32)) ∧
    (b.extractLsb' 0 2 = 0b01#2 → decode b = .synth (b.extractLsb' 2 32)) ∧
    (b.extractLsb' 0 2 = 0b10#2 → decode b =
      .divu (b.extractLsb' 2 32) { sh := b.extractLsb' 66 6, mul := b.extractLsb' 34 32 }) ∧
    (b.extractLsb' 0 2 = 0b11#2 → decode b = .reserved)

/-- The worked encodings of 30_encoding.md section 6, one per row. -/
def Obligations.WorkedEncodingsDecode : Prop :=
  decode 0x000000000000000004#72 = .lzc 1#32 ∧
  decode 0x00000000000000001D#72 = .synth 7#32 ∧
  decode 0x0C9249249400000192#72 = .divu 100#32 { sh := 3#6, mul := 0x24924925#32 } ∧
  decode 0x820000000600000002#72 = .divu 0x80000000#32 { sh := 32#6, mul := 0x80000001#32 } ∧
  decode 0x0000000000000048D3#72 = .reserved

/-- R60, R62: a REQ bundle is its four fields and nothing else, both ways. -/
def Obligations.RequestFieldsRoundTrip : Prop :=
  (∀ f, reqFields (reqBundle f) = f) ∧ ∀ b, reqBundle (reqFields b) = b

/-- R61, R67: the requester reads the response back from the RSP bundle, whatever bits the block drives where no value is carried. -/
def Obligations.ResponseBundleRoundTrip : Prop :=
  ∀ i undriven, Response.ofWire i ((respond i).wire undriven) = respond i

/-- R67: which response fields carry a value; reading one that carries none is a fault; on the wire it may show any bits. -/
def Obligations.ResponseFieldsByOutcome : Prop :=
  (∀ a, respond (.lzc a) = { status := .ok, r := some (BitVec.ofNat 32 (lzc a)), p := none }) ∧
  (∀ a, a ≠ 0#32 → ∃ p, synthesize a = .ok p ∧ respond (.synth a) = { status := .ok, r := none, p := some p }) ∧
  respond (.synth 0#32) = { status := .error .domainError, r := none, p := none } ∧
  (∀ a p, admissible p = true → ∃ r, divide a p = .ok r ∧
    respond (.divu a p) = { status := .ok, r := some r, p := none }) ∧
  (∀ a p, admissible p = false → respond (.divu a p) = { status := .error .invalidParams, r := none, p := none }) ∧
  respond .reserved = { status := .error .illegalOp, r := none, p := none } ∧
  (∀ rsp : Response, (rsp.r = none → rsp.readR = .error .noResultValue) ∧ (rsp.p = none → rsp.readP = .error .noParamsValue)) ∧
  ∀ (rsp : Response) (u : Bundle),
    (rsp.r = none → (rsp.wire u).extractLsb' 2 32 = u.extractLsb' 2 32) ∧
    (rsp.p = none → (rsp.wire u).extractLsb' 34 38 = u.extractLsb' 34 38)

/-- R160, R165: the codes, which operation raises which status and when, and that an error carries no data. -/
def Obligations.StatusCodesAndCauses : Prop :=
  (statusCode .ok = 0b00#2 ∧ statusCode (.error .domainError) = 0b01#2 ∧
    statusCode (.error .invalidParams) = 0b10#2 ∧ statusCode (.error .illegalOp) = 0b11#2) ∧
  (∀ i e, (respond i).status = .error e ↔
    (e = .domainError ∧ i = .synth 0#32) ∨
    (e = .invalidParams ∧ ∃ a p, i = .divu a p ∧ (32 < p.sh.toNat ∨ (p.sh = 0#6 ∧ p.mul ≠ 0#32))) ∨
    (e = .illegalOp ∧ i = .reserved)) ∧
  ∀ i e, (respond i).status = .error e → (respond i).r = none ∧ (respond i).p = none

/-- R80: the count is that of the zero bits from the most significant down, 32 for zero, in closed form `31 - floor(log2 x)`. -/
def Obligations.LzcCountsLeadingZeros : Prop :=
  (∀ x : Word, lzc x ≤ 32 ∧ (∀ i, 32 - lzc x ≤ i → x.getLsbD i = false) ∧
    (lzc x < 32 → x.getLsbD (31 - lzc x) = true)) ∧
  (∀ x : Word, x ≠ 0#32 → lzc x = 31 - Nat.log2 x.toNat) ∧
  lzc 0#32 = 32 ∧ lzc 1#32 = 31 ∧ lzc 0x80000000#32 = 0

/-- R83: where the highest set bit is. -/
def Obligations.LzcBoundsItsOperand : Prop :=
  ∀ x : Word, x ≠ 0#32 → lzc x ≤ 31 ∧ 2 ^ (31 - lzc x) ≤ x.toNat ∧ x.toNat < 2 ^ (32 - lzc x) ∧
    x.getLsbD (31 - lzc x) = true ∧ ∀ i, 31 - lzc x < i → x.getLsbD i = false

/-- R81: a request with `op = 00` is LZC of bits 33:2, and LZC answers OK for every operand, with the count in `r` and nothing in `p`, and nothing else changes. -/
def Obligations.LzcAnswersTheCount : Prop :=
  (∀ b : Bundle, b.extractLsb' 0 2 = 0b00#2 → decode b = .lzc (b.extractLsb' 2 32)) ∧
  ∀ (a : Word) (s : State), exec (.lzc a) s = .next { s with answers := s.answers ++
    [{ request := s.serving
       rsp := { status := .ok, r := some (BitVec.ofNat 32 (if a = 0#32 then 32 else 31 - Nat.log2 a.toNat)), p := none } }] }

/-- After R82: the bisection, in the steps that R82 marks as the spec's own rendering of the source's prose, gives the count of R80 for every input, zero included; so does whichever implementation is built. For the bit-scan this holds by the definition of `lzcBy`, which models it by its contract (DEDUCED, log entry 11). -/
def Obligations.BisectionAgreesWithCount : Prop :=
  (∀ x, lzcBisection x = lzc x) ∧ (∀ impl x, lzcBy impl x = lzc x) ∧ ∀ x, lzcBy Config.lzcImpl x = lzc x

/-- R101, R106: a request with `op = 01` is SYNTH of bits 33:2; SYNTH of zero raises DOMAIN_ERROR and makes no params; SYNTH of any other divisor answers the pair of the pseudocode. -/
def Obligations.SynthAnswersParams : Prop :=
  (∀ b : Bundle, b.extractLsb' 0 2 = 0b01#2 → decode b = .synth (b.extractLsb' 2 32)) ∧
  (∀ s : State, exec (.synth 0#32) s = .next { s with
    answers := s.answers ++ [{ request := s.serving, rsp := { status := .error .domainError, r := none, p := none } }]
    faults := s.faults ++ [{ ticket := s.serving.ticket, cause := .domainError }] }) ∧
  ∀ (d : Word) (s : State), d ≠ 0#32 →
    let sh := (31 - lzc d) + (if d &&& (d - 1#32) = 0#32 then 0 else 1)
    let mul := if sh = 32 then d.toNat else ((2 ^ (32 + sh) + d.toNat - 1) / d.toNat) % 2 ^ 32
    exec (.synth d) s = .next { s with answers := s.answers ++
      [{ request := s.serving
         rsp := { status := .ok, r := none, p := some { sh := BitVec.ofNat 6 sh, mul := BitVec.ofNat 32 mul } } }] }

/-- R107: the closed form of SYNTH, row by row with the regime DIVU uses; `sh = ceil(log2 d)` in every row; `mul = 0` exactly for powers of two; `sh = 0` exactly for 1; the full multiplier falls strictly within one shift, and no two divisors share params. -/
def Obligations.SynthClosedForm : Prop :=
  (∀ (d : Word) (p : Params), synthesize d = .ok p →
    p.sh.toNat = Nat.clog 2 d.toNat ∧
    (d = 1#32 → p = { sh := 0#6, mul := 0#32 } ∧ regime p = .identity) ∧
    (∀ j, 1 ≤ j → j ≤ 31 → d.toNat = 2 ^ j → p.sh.toNat = j ∧ p.mul = 0#32 ∧ regime p = .general) ∧
    (2 ≤ d.toNat → d.toNat ≤ 0x80000000 → (∀ j, d.toNat ≠ 2 ^ j) →
      2 ≤ p.sh.toNat ∧ p.sh.toNat ≤ 31 ∧ 1 ≤ p.mul.toNat ∧ regime p = .general ∧
      p.mul.toNat + 2 ^ 32 = (2 ^ (32 + p.sh.toNat) + d.toNat - 1) / d.toNat) ∧
    (0x80000001 ≤ d.toNat → p = { sh := 32#6, mul := d } ∧ regime p = .compare) ∧
    (p.mul = 0#32 ↔ ∃ j, d.toNat = 2 ^ j) ∧ (p.sh = 0#6 ↔ d = 1#32)) ∧
  (∀ (d d' : Word) (p : Params), synthesize d = .ok p → synthesize d' = .ok p → d = d') ∧
  ∀ d d' sh : Nat, 1 ≤ sh → sh ≤ 31 → 1 ≤ d → d < d' → d' ≤ 2 ^ sh →
    (2 ^ (32 + sh) + d' - 1) / d' < (2 ^ (32 + sh) + d - 1) / d

/-- R104: the numerator fits 64 bits, the full multiplier is `ceil(2^(32+sh)/d)` and lies in `[2^32, 2^33)`, and its low 32 bits are stored. -/
def Obligations.SynthMultiplierIsTruncated : Prop :=
  ∀ (d : Word) (p : Params), synthesize d = .ok p → p.sh.toNat ≤ 31 →
    let num := 2 ^ (32 + p.sh.toNat) + d.toNat - 1
    let full := num / d.toNat
    num ≤ 2 ^ 63 + 2 ^ 31 - 1 ∧
    2 ^ (32 + p.sh.toNat) ≤ full * d.toNat ∧ (full - 1) * d.toNat < 2 ^ (32 + p.sh.toNat) ∧
    2 ^ 32 ≤ full ∧ full < 2 ^ 33 ∧ p.mul.toNat = full % 2 ^ 32 ∧ p.mul.toNat = full - 2 ^ 32 ∧
    (d = 1#32 → full = 2 ^ 32)

/-- R28: no two divisors share their params; 3 and 6 share `mul` and differ in `sh`; the powers of two all have `mul = 0`. -/
def Obligations.SynthIsOneToOne : Prop :=
  (∀ (d d' : Word) (p : Params), synthesize d = .ok p → synthesize d' = .ok p → d = d') ∧
  synthesize 3#32 = .ok { sh := 2#6, mul := 0x55555556#32 } ∧
  synthesize 6#32 = .ok { sh := 3#6, mul := 0x55555556#32 } ∧
  ∀ j, j ≤ 31 → synthesize (BitVec.ofNat 32 (2 ^ j)) = .ok { sh := BitVec.ofNat 6 j, mul := 0#32 }

/-- R109, with the invariants of a DividerParams value (R25): every output of SYNTH is admissible; `sh = 32` marks exactly the divisors from `0x80000001` on and carries the divisor itself; `(0, 0)` marks exactly divisor 1; every other output belongs to a divisor in `2..0x80000000` and is its general reciprocal, `ceil(2^(32+sh)/d) - 2^32`. -/
def Obligations.SynthOutputsMeetParamsInvariants : Prop :=
  ∀ (d : Word) (p : Params), synthesize d = .ok p →
    admissible p = true ∧
    (p.sh = 32#6 ↔ 0x80000001 ≤ d.toNat) ∧
    (p.sh = 32#6 → p.mul = d) ∧
    (p = { sh := 0#6, mul := 0#32 } ↔ d = 1#32) ∧
    (p.sh ≠ 32#6 → p ≠ { sh := 0#6, mul := 0#32 } →
      1 ≤ p.sh.toNat ∧ p.sh.toNat ≤ 31 ∧ 2 ≤ d.toNat ∧ d.toNat ≤ 0x80000000 ∧
      p.mul.toNat + 2 ^ 32 = (2 ^ (32 + p.sh.toNat) + d.toNat - 1) / d.toNat)

/-- R136, R163: a request with `op = 10` is DIVU of bits 33:2 and the params in bits 71:34; DIVU raises INVALID_PARAMS for params that are not admissible, and answers the quotient of the pseudocode for every other operand. -/
def Obligations.DivuAnswersTheQuotient : Prop :=
  (∀ b : Bundle, b.extractLsb' 0 2 = 0b10#2 → decode b =
    .divu (b.extractLsb' 2 32) { sh := b.extractLsb' 66 6, mul := b.extractLsb' 34 32 }) ∧
  (∀ (v : Word) (p : Params) (s : State), (32 < p.sh.toNat ∨ (p.sh = 0#6 ∧ p.mul ≠ 0#32)) →
    exec (.divu v p) s = .next { s with
      answers := s.answers ++ [{ request := s.serving, rsp := { status := .error .invalidParams, r := none, p := none } }]
      faults := s.faults ++ [{ ticket := s.serving.ticket, cause := .invalidParams }] }) ∧
  ∀ (v : Word) (p : Params) (s : State), p.sh.toNat ≤ 32 → (p.sh = 0#6 → p.mul = 0#32) →
    let q := p.mul.toNat * v.toNat / 2 ^ 32
    let r :=
      if p.sh.toNat = 32 then (if p.mul.toNat ≤ v.toNat then 1 else 0)
      else if p.mul.toNat = 0 ∧ p.sh.toNat = 0 then v.toNat
      else ((v.toNat - q) / 2 + q) / 2 ^ (p.sh.toNat - 1)
    exec (.divu v p) s = .next { s with answers := s.answers ++
      [{ request := s.serving, rsp := { status := .ok, r := some (BitVec.ofNat 32 r), p := none } }] }

/-- R132: the regimes are tested in this order, and regime C sees only shifts 1..31 of admissible params. -/
def Obligations.RegimesInOrder : Prop :=
  ∀ p : Params,
    (p.sh = 32#6 → regime p = .compare) ∧
    (p.sh ≠ 32#6 → p.mul = 0#32 ∧ p.sh = 0#6 → regime p = .identity) ∧
    (p.sh ≠ 32#6 → ¬ (p.mul = 0#32 ∧ p.sh = 0#6) → regime p = .general) ∧
    (admissible p = true → regime p = .general → 1 ≤ p.sh.toNat ∧ p.sh.toNat ≤ 31)

/-- R135: no step of the general regime wraps, for any dividend and any multiplier, and its mean is `floor((v + q) / 2)`. -/
def Obligations.GeneralRegimeNeverWraps : Prop :=
  ∀ (v mul : Word) (sh : BitVec 6), 1 ≤ sh.toNat → sh.toNat ≤ 31 →
    let q := hi32 (product mul v)
    (product mul v).toNat = mul.toNat * v.toNat ∧
    q.toNat = mul.toNat * v.toNat / 2 ^ 32 ∧ q.toNat ≤ v.toNat ∧
    (divideMean v q).toNat = (v.toNat - q.toNat) / 2 + q.toNat ∧
    (divideMean v q).toNat = (v.toNat + q.toNat) / 2 ∧ (divideMean v q).toNat ≤ v.toNat ∧
    (divideGeneral v { sh := sh, mul := mul }).toNat = (divideMean v q).toNat / 2 ^ (sh.toNat - 1)

/-- R137: dividing by the params of a divisor is truncating division by it, for every divisor and every dividend. -/
def Obligations.DivuBySynthIsDivision : Prop :=
  ∀ (d : Word) (p : Params), synthesize d = .ok p → ∀ v : Word,
    divide v p = .ok (BitVec.ofNat 32 (v.toNat / d.toNat))

/-- R137, R141, R194 at the block's boundary: SYNTH answers OK with params for every nonzero divisor, and from then on, in whatever states, DIVU with those params answers OK with the quotient by that divisor. -/
def Obligations.SynthThenDivuDivides : Prop :=
  ∀ (d : Word) (s : State), d ≠ 0#32 → ∃ p,
    exec (.synth d) s = .next { s with answers := s.answers ++
      [{ request := s.serving, rsp := { status := .ok, r := none, p := some p } }] } ∧
    ∀ (v : Word) (t : State), exec (.divu v p) t = .next { t with answers := t.answers ++
      [{ request := t.serving, rsp := { status := .ok, r := some (BitVec.ofNat 32 (v.toNat / d.toNat)), p := none } }] }

/-- R26, R138: admissible params always get a result; some are no divisor's params, and theirs need be no quotient. -/
def Obligations.AdmissibleParamsNeedNotBeSynthesized : Prop :=
  (∀ p, Synthesized p → admissible p = true) ∧
  (∀ v p, admissible p = true → ∃ r, divide v p = .ok r) ∧
  ¬ Synthesized { sh := 32#6, mul := 5#32 } ∧ ¬ Synthesized { sh := 1#6, mul := 0xFFFFFFFF#32 } ∧
  ¬ Synthesized { sh := 5#6, mul := 1#32 } ∧
  divide 100#32 { sh := 32#6, mul := 0#32 } = .ok 1#32 ∧
  divide 0xFFFFFFFF#32 { sh := 31#6, mul := 0xFFFFFFFF#32 } = .ok 3#32 ∧
  ∀ d : Nat, divide 0#32 { sh := 32#6, mul := 0#32 } ≠ .ok (BitVec.ofNat 32 (0 / d))

/-- R164: a request with `op = 11` gets ILLEGAL_OP and no data, whatever its other fields hold. -/
def Obligations.ReservedAnswersIllegalOp : Prop :=
  (∀ b : Bundle, b.extractLsb' 0 2 = 0b11#2 → decode b = .reserved) ∧
  ∀ s : State, exec .reserved s = .next { s with
    answers := s.answers ++ [{ request := s.serving, rsp := { status := .error .illegalOp, r := none, p := none } }]
    faults := s.faults ++ [{ ticket := s.serving.ticket, cause := .illegalOp }] }

/-- R69 in the model's own words: an instruction is not well-formed exactly when its answer is INVALID_PARAMS or ILLEGAL_OP. -/
def Obligations.ReservedEncodingsAreAnsweredWithErrors : Prop :=
  ∀ i : Instr, i.wellFormed = false ↔
    ((respond i).status = .error .invalidParams ∨ (respond i).status = .error .illegalOp)

/-- R20: there is one function of the bundle that gives the response to a request, in every state, whichever request it is served before or after. -/
def Obligations.ResponseDependsOnTheRequestAlone : Prop :=
  ∃ f : Bundle → Response, ∀ (s : State) (k : Nat) (q : Request), s.waiting[k]? = some q →
    ∃ t, serveAt k s = .next t ∧ t.answers = s.answers ++ [{ request := q, rsp := f q.bundle }]

/-- The frame of every operation (LZC, SYNTH, DIVU, reserved): one response more, a recorded fault more if it is an error (R170, log entry 7), and all else as before, the model's own fields serving, draws and issued (log entries 2, 3, 8) among it. -/
def Obligations.ExecFrame : Prop :=
  ∀ (i : Instr) (s t : State), exec i s = .next t →
    t.waiting = s.waiting ∧ t.serving = s.serving ∧ t.stuck = s.stuck ∧ t.issued = s.issued ∧ t.draws = s.draws ∧
    ∃ rsp : Response, t.answers = s.answers ++ [{ request := s.serving, rsp := rsp }] ∧
      (rsp.status = .ok → t.faults = s.faults) ∧
      ∀ e, rsp.status = .error e → t.faults = s.faults ++ [{ ticket := s.serving.ticket, cause := e }]

/-- R170: a non-OK response is recorded as a fault of its host's run, and what is recorded is never cleared. -/
def Obligations.FaultsAreRecordedAndNeverCleared : Prop :=
  (∀ (s t : State) (k : Nat) (q : Request) (e : ErrorStatus), s.waiting[k]? = some q →
    (respond (decode q.bundle)).status = .error e → serveAt k s = .next t →
    { ticket := q.ticket, cause := e } ∈ t.faults) ∧
  ∀ (s t : State) (x : RunFault), Relation.ReflTransGen Transition s t → x ∈ s.faults → x ∈ t.faults

/-- A host whose waiting requests are all dutiful gets no fault recorded, whatever the other hosts send. -/
def Obligations.DutifulHostStaysFaultless : Prop :=
  ∀ (s t : State) (n : Nat), (∀ q ∈ s.waiting, q.ticket.requester = n → Dutiful (decode q.bundle)) →
    s.Faultless n → Transition s t → t.Faultless n

/-- With no new request, as many steps as requests wait answer every one of them once, each with its own response. -/
def Obligations.StepsDrainAllWaiting : Prop :=
  ∀ s : State, ∃ (t : State) (l : List Request), core.run s.waiting.length s = .next t ∧ t.waiting = [] ∧
    l.Perm s.waiting ∧
    t.answers = s.answers ++ l.map (fun q => { request := q, rsp := respond (decode q.bundle) })

/-- R46: for any two requests, each response is the same whichever is served first, and the same as when each is served alone. -/
def Obligations.OrderOfServiceChangesNoResponse : Prop :=
  ∀ (s : State) (q₁ q₂ : Request), s.waiting = [q₁, q₂] → ∃ (r₁ r₂ : Response) (t₁ t₂ u₁ u₂ v₁ v₂ : State),
    serveAt 0 s = .next t₁ ∧ serveAt 0 t₁ = .next u₁ ∧
    u₁.answers = s.answers ++ [{ request := q₁, rsp := r₁ }, { request := q₂, rsp := r₂ }] ∧
    serveAt 1 s = .next t₂ ∧ serveAt 0 t₂ = .next u₂ ∧
    u₂.answers = s.answers ++ [{ request := q₂, rsp := r₂ }, { request := q₁, rsp := r₁ }] ∧
    step { s with waiting := [q₁] } = .next v₁ ∧ v₁.answers = s.answers ++ [{ request := q₁, rsp := r₁ }] ∧
    step { s with waiting := [q₂] } = .next v₂ ∧ v₂.answers = s.answers ++ [{ request := q₂, rsp := r₂ }]

/-- R198: in a fair run every waiting request is answered after finitely many moments, unless a reset cuts it off (R192). Fairness is the spec's assumption (log entry 13). -/
def Obligations.FairRunsAnswerEveryRequest : Prop :=
  ∀ f : Nat → State, Run f → Fair f → ∀ (n : Nat) (q : Request), q ∈ (f n).waiting →
    ∃ m, n < m ∧ (({ request := q, rsp := respond (decode q.bundle) } : Answer) ∈ (f m).answers ∨ q ∈ (f m).stuck)

/-- R71: both expansions of DIVC come to the same DIVU, for every divisor in 1..0xFFFFFFFF; divisor 0 has no expansion. The host's name for the pair is not the dividend's. -/
def Obligations.DivcExpansionsAgree : Prop :=
  (∀ (names : HostNames) (bind : Option HostName) (P : HostName) (a : AsmArg) (d : Nat) (v : Word),
    1 ≤ d → d < 2 ^ 32 → a ≠ .name P → a.value names = .ok v →
    ∃ (p : Params) (names' : HostNames),
      (AsmOp.divc a d).assemble names = .ok (.divu v p) ∧
      synthesize (BitVec.ofNat 32 d) = .ok p ∧
      expandUnfolded bind P a d =
        .ok [{ bind := some P, op := .synth (.num d) }, { bind := bind, op := .divu a (.name P) }] ∧
      (AsmOp.synth (.num d)).assemble names = .ok (.synth (BitVec.ofNat 32 d)) ∧
      names.bindResponse (some P) (respond (.synth (BitVec.ofNat 32 d))) = .ok names' ∧
      (AsmOp.divu a (.name P)).assemble names' = .ok (.divu v p)) ∧
  ∀ (names : HostNames) (bind : Option HostName) (P : HostName) (a : AsmArg),
    (AsmOp.divc a 0).assemble names = .error .divisorZero ∧ expandUnfolded bind P a 0 = .error .divisorZero

/-- R108: params folded ahead of time equal SYNTH's bit for bit, wherever they come from. -/
def Obligations.FoldedParamsEqualSynth : Prop :=
  (∀ d : Word, d ≠ 0#32 → synthesize d = .ok (foldParams d.toNat)) ∧
  ∀ d : Word, paramsFor .block d = paramsFor .folded d

/-- R193: a DIVU line whose params name is bound to nothing yet is refused, so it cannot be sent before the SYNTH response is back; once that response is bound, it assembles with those params. The dividend is any operand with a value, a numeral or a name; it is never the params name, which holds none. The refusal's form is the model's choice (log entry 14). -/
def Obligations.DivuWaitsForItsSynth : Prop :=
  ∀ (names : HostNames) (a : AsmArg) (v : Word) (x : HostName) (d : Word),
    a.value names = .ok v → names.lookup x = none → d ≠ 0#32 →
    (AsmOp.divu a (.name x)).assemble names = .error .unboundName ∧
    ∃ (names' : HostNames) (p : Params), names.bindResponse (some x) (respond (.synth d)) = .ok names' ∧
      synthesize d = .ok p ∧
      (AsmOp.divu a (.name x)).assemble names' = .ok (.divu v p)

/-- A placed request is what the next step runs (log entry 9, the model's own load of a request). -/
def Obligations.PlacedRequestIsServedNext : Prop :=
  ∀ (s : State) (nbits w : Nat), step (s.withFetchWord nbits w) =
    exec (decode (tableBundle nbits w)) { s with
      waiting := []
      serving := { ticket := { requester := 0, tag := s.issued }, bundle := tableBundle nbits w }
      issued := s.issued + 1 }

/-- R41, R68: in either byte order of a platform's memory a stored bundle is nine bytes that load and decode as the bundle; any other length is rejected. -/
def Obligations.StoredBundlesDecode : Prop :=
  (∀ o b, (storeBundle o b).length = 9 ∧ loadBundle o (storeBundle o b) = .ok b) ∧
  (∀ b, decodeBytes Config.bundleByteOrder (storeBundle Config.bundleByteOrder b) = .ok (decode b)) ∧
  ∀ o bs, bs.length ≠ 9 → decodeBytes o bs = .error .notOneBundle
end

