-- ==== Sys2Proof/Laws/Arith.lean ====
section
/-! SUPPORT. One lemma per arithmetic helper: what each computes, as natural numbers. -/

namespace Sys2Proof.Machine

/-- The product of two words is exact. -/
theorem toNat_product (x y : Word) : (product x y).toNat = x.toNat * y.toNat := by
  have hx := x.isLt
  have hy := y.isLt
  have h : x.toNat * y.toNat < 2 ^ 64 :=
    calc x.toNat * y.toNat < 2 ^ 32 * 2 ^ 32 := Nat.mul_lt_mul'' hx hy
      _ = 2 ^ 64 := by norm_num
  simp only [product, BitVec.toNat_mul, BitVec.toNat_setWidth]
  rw [Nat.mod_eq_of_lt (a := x.toNat) (by omega), Nat.mod_eq_of_lt (a := y.toNat) (by omega), Nat.mod_eq_of_lt h]

/-- The upper half is the quotient by `2^32`. -/
theorem toNat_hi32 (p : BitVec 64) : (hi32 p).toNat = p.toNat / 2 ^ 32 := by
  have hp := p.isLt
  simp only [hi32, BitVec.extractLsb'_toNat, Nat.shiftRight_eq_div_pow]
  exact Nat.mod_eq_of_lt (by omega)

/-- The count of the loop never exceeds what it started from plus the bits it looks at. -/
theorem lzcLoop_le (x : Word) (i n : Nat) : lzcLoop x i n ≤ n + i := by
  induction i generalizing n with
  | zero => simp [lzcLoop]
  | succ i ih =>
    unfold lzcLoop
    split
    · omega
    · exact (ih (n + 1)).trans (by omega)

/-- The admission check of DIVU lets through exactly what is no reserved encoding. -/
theorem admissible_eq_not_reservedEncoding (p : Params) : admissible p = !p.reservedEncoding := by
  by_cases h : p.sh.toNat ≤ 32
  · simp [admissible, Params.reservedEncoding, h, Nat.not_le.mpr (Nat.lt_succ_of_le h)]
  · simp [admissible, Params.reservedEncoding, h, Nat.succ_le_of_lt (Nat.lt_of_not_le h)]

end Sys2Proof.Machine
end

