-- ==== Sys2Proof/Laws/Bundles.lean ====
section
/-! SUPPORT. The bits of the PARAMS field and of the REQ and RSP bundles (30_encoding.md R60 to R62), and reading the fields back. -/

namespace Sys2Proof

/-- Each bit of a PARAMS field: `mul` below bit 32, `sh` above. -/
theorem getLsbD_packParams (p : Params) (i : Nat) :
    (packParams p).getLsbD i = if i < 32 then p.mul.getLsbD i else p.sh.getLsbD (i - 32) :=
  BitVec.getLsbD_append (x := p.sh) (y := p.mul) (i := i)

/-- Each bit of a bundle put together from three fields: the low one below bit 2, the middle one below bit 34. -/
theorem getLsbD_bundle (x : BitVec 38) (y : Word) (z : BitVec 2) (i : Nat) :
    BitVec.getLsbD (w := 72) (x ++ y ++ z) i =
      if i < 2 then z.getLsbD i else if i < 34 then y.getLsbD (i - 2) else x.getLsbD (i - 34) := by
  have h := BitVec.getLsbD_append (x := x ++ y) (y := z) (i := i)
  have h' := BitVec.getLsbD_append (x := x) (y := y) (i := i - 2)
  refine h.trans ?_
  by_cases h2 : i < 2
  · simp [h2]
  · by_cases h34 : i < 34
    · have : i - 2 < 32 := by omega
      simp [h2, h34, h', this]
    · have h30 : ¬ i - 2 < 32 := by omega
      have e : i - 2 - 32 = i - 34 := by omega
      simp [h2, h34, h', h30, e]

/-- Reading back the low field of a bundle. -/
theorem extract_low (x : BitVec 38) (y : Word) (z : BitVec 2) :
    BitVec.extractLsb' (n := 72) 0 2 (x ++ y ++ z) = z := by
  refine BitVec.eq_of_getLsbD_eq fun i hi => ?_
  rw [BitVec.getLsbD_extractLsb', getLsbD_bundle]
  simp [hi]

/-- Reading back the middle field of a bundle. -/
theorem extract_mid (x : BitVec 38) (y : Word) (z : BitVec 2) :
    BitVec.extractLsb' (n := 72) 2 32 (x ++ y ++ z) = y := by
  refine BitVec.eq_of_getLsbD_eq fun i hi => ?_
  rw [BitVec.getLsbD_extractLsb', getLsbD_bundle]
  have h2 : ¬ 2 + i < 2 := by omega
  have h : 2 + i < 34 := by omega
  rw [if_neg h2, if_pos h]
  simp [hi]

/-- Reading back the high field of a bundle. -/
theorem extract_high (x : BitVec 38) (y : Word) (z : BitVec 2) :
    BitVec.extractLsb' (n := 72) 34 38 (x ++ y ++ z) = x := by
  refine BitVec.eq_of_getLsbD_eq fun i hi => ?_
  rw [BitVec.getLsbD_extractLsb', getLsbD_bundle]
  have h : ¬ 34 + i < 2 := by omega
  simp [hi, h]

/-- Reading back a PARAMS field. -/
theorem unpackParams_packParams (p : Params) : unpackParams (packParams p) = p := by
  have hs : (packParams p).extractLsb' 32 6 = p.sh := by
    refine BitVec.eq_of_getLsbD_eq fun i hi => ?_
    rw [BitVec.getLsbD_extractLsb', getLsbD_packParams]
    simp [hi]
  have hm : (packParams p).extractLsb' 0 32 = p.mul := by
    refine BitVec.eq_of_getLsbD_eq fun i hi => ?_
    rw [BitVec.getLsbD_extractLsb', getLsbD_packParams]
    simp [hi]
  simp [unpackParams, hs, hm]

/-- Each status has its own code. -/
theorem Machine.statusOfCode_statusCode (st : Machine.Status) :
    Machine.statusOfCode (Machine.statusCode st) = st := by
  cases st with
  | ok => rfl
  | error e => cases e <;> rfl

end Sys2Proof
end

