-- ==== Sys2Proof/Laws/State.lean ====
section
/-! SUPPORT. One lemma per field per update of the state, so that no proof unfolds a record update. -/

namespace Sys2Proof.Machine

@[simp] theorem State.withAnswer_waiting (s : State) (x : Response) : (s.withAnswer x).waiting = s.waiting := rfl
@[simp] theorem State.withAnswer_serving (s : State) (x : Response) : (s.withAnswer x).serving = s.serving := rfl
@[simp] theorem State.withAnswer_answers (s : State) (x : Response) :
    (s.withAnswer x).answers = s.answers ++ [{ request := s.serving, rsp := x }] := rfl
@[simp] theorem State.withAnswer_faults (s : State) (x : Response) : (s.withAnswer x).faults = s.faults := rfl
@[simp] theorem State.withAnswer_stuck (s : State) (x : Response) : (s.withAnswer x).stuck = s.stuck := rfl
@[simp] theorem State.withAnswer_issued (s : State) (x : Response) : (s.withAnswer x).issued = s.issued := rfl
@[simp] theorem State.withAnswer_draws (s : State) (x : Response) : (s.withAnswer x).draws = s.draws := rfl

@[simp] theorem State.record_waiting (s : State) (st : Status) : (s.record st).waiting = s.waiting := rfl
@[simp] theorem State.record_serving (s : State) (st : Status) : (s.record st).serving = s.serving := rfl
@[simp] theorem State.record_answers (s : State) (st : Status) : (s.record st).answers = s.answers := rfl
@[simp] theorem State.record_faults (s : State) (st : Status) :
    (s.record st).faults = s.faults ++ st.runFaults s.serving.ticket := rfl
@[simp] theorem State.record_stuck (s : State) (st : Status) : (s.record st).stuck = s.stuck := rfl
@[simp] theorem State.record_issued (s : State) (st : Status) : (s.record st).issued = s.issued := rfl
@[simp] theorem State.record_draws (s : State) (st : Status) : (s.record st).draws = s.draws := rfl

@[simp] theorem State.deliver_waiting (s : State) (x : Response) : (s.deliver x).waiting = s.waiting := rfl
@[simp] theorem State.deliver_serving (s : State) (x : Response) : (s.deliver x).serving = s.serving := rfl
@[simp] theorem State.deliver_answers (s : State) (x : Response) :
    (s.deliver x).answers = s.answers ++ [{ request := s.serving, rsp := x }] := rfl
@[simp] theorem State.deliver_faults (s : State) (x : Response) :
    (s.deliver x).faults = s.faults ++ x.status.runFaults s.serving.ticket := rfl
@[simp] theorem State.deliver_stuck (s : State) (x : Response) : (s.deliver x).stuck = s.stuck := rfl
@[simp] theorem State.deliver_issued (s : State) (x : Response) : (s.deliver x).issued = s.issued := rfl
@[simp] theorem State.deliver_draws (s : State) (x : Response) : (s.deliver x).draws = s.draws := rfl

@[simp] theorem State.draw_waiting (s : State) : s.draw.waiting = s.waiting := rfl
@[simp] theorem State.draw_serving (s : State) : s.draw.serving = s.serving := rfl
@[simp] theorem State.draw_answers (s : State) : s.draw.answers = s.answers := rfl
@[simp] theorem State.draw_faults (s : State) : s.draw.faults = s.faults := rfl
@[simp] theorem State.draw_stuck (s : State) : s.draw.stuck = s.stuck := rfl
@[simp] theorem State.draw_issued (s : State) : s.draw.issued = s.issued := rfl
@[simp] theorem State.draw_draws (s : State) : s.draw.draws = s.draws + 1 := rfl

@[simp] theorem State.send_waiting (s : State) (n : Nat) (b : Bundle) :
    (s.send n b).waiting = s.waiting ++ [{ ticket := { requester := n, tag := s.issued }, bundle := b }] := rfl
@[simp] theorem State.send_serving (s : State) (n : Nat) (b : Bundle) : (s.send n b).serving = s.serving := rfl
@[simp] theorem State.send_answers (s : State) (n : Nat) (b : Bundle) : (s.send n b).answers = s.answers := rfl
@[simp] theorem State.send_faults (s : State) (n : Nat) (b : Bundle) : (s.send n b).faults = s.faults := rfl
@[simp] theorem State.send_stuck (s : State) (n : Nat) (b : Bundle) : (s.send n b).stuck = s.stuck := rfl
@[simp] theorem State.send_issued (s : State) (n : Nat) (b : Bundle) : (s.send n b).issued = s.issued + 1 := rfl
@[simp] theorem State.send_draws (s : State) (n : Nat) (b : Bundle) : (s.send n b).draws = s.draws := rfl

@[simp] theorem State.resetEvent_waiting (s : State) : s.resetEvent.waiting = [] := rfl
@[simp] theorem State.resetEvent_serving (s : State) : s.resetEvent.serving = s.serving := rfl
@[simp] theorem State.resetEvent_answers (s : State) : s.resetEvent.answers = [] := rfl
@[simp] theorem State.resetEvent_faults (s : State) : s.resetEvent.faults = s.faults := rfl
@[simp] theorem State.resetEvent_stuck (s : State) : s.resetEvent.stuck = s.stuck ++ s.waiting := rfl
@[simp] theorem State.resetEvent_issued (s : State) : s.resetEvent.issued = s.issued := rfl
@[simp] theorem State.resetEvent_draws (s : State) : s.resetEvent.draws = s.draws := rfl

@[simp] theorem State.place_waiting (s : State) (b : Bundle) :
    (s.place b).waiting = [{ ticket := { requester := 0, tag := s.issued }, bundle := b }] := rfl
@[simp] theorem State.place_serving (s : State) (b : Bundle) : (s.place b).serving = s.serving := rfl
@[simp] theorem State.place_answers (s : State) (b : Bundle) : (s.place b).answers = s.answers := rfl
@[simp] theorem State.place_faults (s : State) (b : Bundle) : (s.place b).faults = s.faults := rfl
@[simp] theorem State.place_stuck (s : State) (b : Bundle) : (s.place b).stuck = s.stuck := rfl
@[simp] theorem State.place_issued (s : State) (b : Bundle) : (s.place b).issued = s.issued + 1 := rfl
@[simp] theorem State.place_draws (s : State) (b : Bundle) : (s.place b).draws = s.draws := rfl

@[simp] theorem Status.runFaults_ok (t : Ticket) : Status.ok.runFaults t = [] := rfl
@[simp] theorem Status.runFaults_error (t : Ticket) (e : ErrorStatus) :
    (Status.error e).runFaults t = [{ ticket := t, cause := e }] := rfl

end Sys2Proof.Machine
end

