-- ==== Sys2Proof/Laws/Ops.lean ====
section
/-! SUPPORT. What each shared operation can do, said once: taking a request, running one, a step. -/

namespace Sys2Proof.Machine

/-- Running an instruction returns its response to the request being served, and does nothing else. -/
theorem exec_eq_deliver (i : Instr) (s : State) : exec i s = .next (s.deliver (respond i)) := by
  cases i <;> rfl

/-- Taking position `k` takes the request there. -/
theorem takeAt_of_getElem? {s : State} {k : Nat} {q : Request} (h : s.waiting[k]? = some q) :
    s.takeAt k = some { s with waiting := s.waiting.eraseIdx k, serving := q } := by
  simp [State.takeAt, h]

/-- Whatever taking position `k` answers, it took the request there. -/
theorem takeAt_cases {s t : State} {k : Nat} (h : s.takeAt k = some t) :
    ∃ q, s.waiting[k]? = some q ∧ t = { s with waiting := s.waiting.eraseIdx k, serving := q } := by
  unfold State.takeAt at h
  split at h
  · cases h
  · rename_i q hq
    exact ⟨q, hq, (Option.some.inj h).symm⟩

/-- There is nothing to take exactly when nothing waits. -/
theorem takeNext_eq_none_iff (s : State) : s.takeNext = none ↔ s.waiting = [] := by
  unfold State.takeNext
  split
  · simp_all
  · simp_all
  · rename_i a b rest hw
    have hk : Config.arbitration s.draws % s.waiting.length < s.waiting.length :=
      Nat.mod_lt _ (by simp [hw])
    have hq : s.draw.waiting[Config.arbitration s.draws % s.waiting.length]? =
        some (s.waiting[Config.arbitration s.draws % s.waiting.length]'hk) := by
      simp [List.getElem?_eq_getElem hk]
    rw [takeAt_of_getElem? hq]
    simp [hw]

/-- Whatever taking the next request answers, it took one that waits; only the count of free choices may have moved besides. -/
theorem takeNext_cases {s t : State} (h : s.takeNext = some t) :
    ∃ k q d, s.waiting[k]? = some q ∧
      t = { s with waiting := s.waiting.eraseIdx k, serving := q, draws := d } := by
  unfold State.takeNext at h
  split at h
  · cases h
  · rename_i q hw
    exact ⟨0, q, s.draws, by simp [hw], by simpa [hw] using h.symm⟩
  · obtain ⟨q, hq, rfl⟩ := takeAt_cases h
    exact ⟨_, q, s.draws + 1, by simpa using hq, rfl⟩

/-- Serving position `k`: nothing there, or the request there is taken and answered. -/
theorem serveAt_cases (k : Nat) (s : State) :
    (s.waiting[k]? = none ∧ serveAt k s = .next s) ∨
    ∃ q, s.waiting[k]? = some q ∧ serveAt k s =
      .next (({ s with waiting := s.waiting.eraseIdx k, serving := q } : State).deliver (respond (decode q.bundle))) := by
  cases hq : s.waiting[k]? with
  | none => exact .inl ⟨rfl, by simp [serveAt, State.takeAt, hq]⟩
  | some q => exact .inr ⟨q, rfl, by simp [serveAt, takeAt_of_getElem? hq, exec_eq_deliver]⟩

/-- Everything a step can do: it stays where nothing waits, or it takes one waiting request and answers it. -/
theorem step_cases (s : State) :
    (s.waiting = [] ∧ step s = .next s) ∨
    ∃ k q d, s.waiting[k]? = some q ∧ step s =
      .next (({ s with waiting := s.waiting.eraseIdx k, serving := q, draws := d } : State).deliver
        (respond (decode q.bundle))) := by
  cases h : s.takeNext with
  | none => exact .inl ⟨(takeNext_eq_none_iff s).1 h, by simp [step, h]⟩
  | some t =>
    obtain ⟨k, q, d, hq, rfl⟩ := takeNext_cases h
    exact .inr ⟨k, q, d, hq, by simp [step, h, exec_eq_deliver]⟩

/-- A response that can be read was returned for that ticket. -/
theorem responseTo_ok {s : State} {k : Ticket} {rsp : Response} (h : s.responseTo k = .ok rsp) :
    ∃ ans ∈ s.answers, ans.request.ticket = k ∧ ans.rsp = rsp := by
  unfold State.responseTo at h
  split at h
  · rename_i ans hf
    exact ⟨ans, List.mem_of_find?_eq_some hf, by simpa using List.find?_some hf, Except.ok.inj h⟩
  · split at h <;> cases h

/-- With no returned response for a ticket, reading it faults: its requester is stuck if a reset cut the request off. -/
theorem responseTo_of_unanswered {s : State} {k : Ticket} (h : ∀ ans ∈ s.answers, ans.request.ticket ≠ k) :
    s.responseTo k = if s.stuck.any (fun q => q.ticket == k) then .error .requesterStuck else .error .noResponse := by
  have hf : s.answers.find? (fun ans => ans.request.ticket == k) = none := by simpa using h
  simp [State.responseTo, hf]

end Sys2Proof.Machine
end

