-- ==== Sys2Proof/Laws/PerInstr.lean ====
section
/-! SUPPORT. A statement for each instruction: its encoding carries its opcode (30_encoding.md R64), where R60 puts it. -/

namespace Sys2Proof.Laws.OpcodeField

/-- Bits 1:0 of the encoding are the operation's code. -/
def Statement (i : Instr) : Prop := (encode i).extractLsb' 0 2 = opcode i

/-- The opcode field of any bundle that is put together from fields. -/
theorem op_reqBundle (f : ReqFields) : (reqBundle f).extractLsb' 0 2 = f.op := extract_low _ _ _

theorem lzc (a : Word) : Statement (.lzc a) := op_reqBundle _
theorem synth (a : Word) : Statement (.synth a) := op_reqBundle _
theorem divu (a : Word) (p : Params) : Statement (.divu a p) := op_reqBundle _
theorem reserved : Statement .reserved := op_reqBundle _

end Sys2Proof.Laws.OpcodeField
end

