-- ==== Sys2Proof/Machine/AsmText.lean ====
section
/-! DEFINITION. The text of a request line and of a response (30_encoding.md R70, R71), as lists of characters. What R70 leaves open of it is a DESIGN CHOICE, log entry 14: safe. -/

namespace Sys2Proof.Machine

/-- The tokens of a line. -/
inductive Token where
  | word (cs : List Char)
  | comma
  | openParen
  | closeParen
  | hash
  | equals
  deriving DecidableEq, Repr

/-- The word read so far (its characters in reverse), if there is one. -/
def flushWord : List Char → List Token
  | [] => []
  | c :: cs => [.word (c :: cs).reverse]

/-- The token a punctuation character stands for. -/
def punctuation (c : Char) : Option Token :=
  if c = ',' then some .comma
  else if c = '(' then some .openParen
  else if c = ')' then some .closeParen
  else if c = '#' then some .hash
  else if c = '=' then some .equals
  else none

/-- The tokens of a text, `acc` being the word read so far in reverse. -/
def lexFrom : List Char → List Char → List Token
  | acc, [] => flushWord acc
  | acc, c :: cs =>
    match punctuation c with
    | some t => flushWord acc ++ t :: lexFrom [] cs
    | none => if c = ' ' then flushWord acc ++ lexFrom [] cs else lexFrom (c :: acc) cs

/-- Characters that follow each other and write the digits from `low` on. -/
structure DigitRun where
  first : Char
  count : Nat
  low : Nat
  deriving DecidableEq, Repr

/-- The digits of R70's numerals, each of value below 16; the upper-case letters, in which the spec writes its hexadecimal numerals, come before the lower-case ones. -/
def digitRuns : List DigitRun := [⟨'0', 10, 0⟩, ⟨'A', 6, 10⟩, ⟨'a', 6, 10⟩]

/-- The value of a character as a digit, by the run it stands in. -/
def digitValue (c : Char) : Option Nat :=
  digitRuns.findSome? fun run =>
    (List.range run.count).findSome? fun k => if run.first.toNat + k = c.toNat then some (run.low + k) else none

/-- The character that writes a digit: the first run that holds its value. -/
def digitChar (n : Nat) : Char :=
  match digitRuns.find? fun run => decide (run.low ≤ n ∧ n < run.low + run.count) with
  | some run => Char.ofNat (run.first.toNat + (n - run.low))
  | none => '?'

/-- The number a string of digits writes in a base, after the digits that make `n`. -/
def digitsFrom (base : Nat) : Nat → List Char → Option Nat
  | n, [] => some n
  | n, c :: cs =>
    match digitValue c with
    | some v => if v < base then digitsFrom base (n * base + v) cs else none
    | none => none

/-- A numeral (R70): decimal, or hexadecimal after `0x`. -/
def numeral : List Char → Option Nat
  | [] => none
  | '0' :: 'x' :: [] => none
  | '0' :: 'x' :: c :: cs => digitsFrom 16 0 (c :: cs)
  | c :: cs => digitsFrom 10 0 (c :: cs)

/-- Whether a word begins as a numeral does; any other word is a host name. -/
def startsWithDigit : List Char → Bool
  | [] => false
  | c :: _ => (digitValue c).any fun v => decide (v < 10)

/-- The operand `<a>` of a word. -/
def argOfWord (w : List Char) : Option AsmArg :=
  if startsWithDigit w then (numeral w).map .num else some (.name w)

/-- The literal pair `(<sh>, <mul>)` of two words. -/
def pairOfWords (sh mul : List Char) : Option AsmParams :=
  match numeral sh, numeral mul with
  | some a, some b => some (.pair a b)
  | _, _ => none

/-- The operand `<p>` of the tokens that end a DIVU line. -/
def paramsOfTokens : List Token → Option AsmParams
  | [.word x] => if startsWithDigit x then none else some (.name x)
  | [.openParen, .word sh, .comma, .word mul, .closeParen] => pairOfWords sh mul
  | _ => none

/-- The operation of a mnemonic (upper case, R70), its first operand and the tokens after that operand. -/
def opOfTokens (mnemonic : List Char) (a : AsmArg) (rest : List Token) : Option AsmOp :=
  if mnemonic = ['L', 'Z', 'C'] then
    if rest = [] then some (.lzc a) else none
  else if mnemonic = ['S', 'Y', 'N', 'T', 'H'] then
    if rest = [] then some (.synth a) else none
  else if mnemonic = ['D', 'I', 'V', 'U'] then
    match rest with
    | .comma :: ts => (paramsOfTokens ts).map (.divu a)
    | _ => none
  else if mnemonic = ['D', 'I', 'V', 'C'] then
    match rest with
    | [.comma, .hash, .word d] => (numeral d).map (.divc a)
    | _ => none
  else none

/-- The operation of a line's tokens, without the name it binds. -/
def parseOp : List Token → Option AsmOp
  | .word m :: .word a :: rest =>
    match argOfWord a with
    | some arg => opOfTokens m arg rest
    | none => none
  | _ => none

/-- A line (R70): `[<name> =]` and an operation. -/
def parseLine (text : List Char) : Option AsmLine :=
  match lexFrom [] text with
  | .word x :: .equals :: ts =>
    if startsWithDigit x then none else (parseOp ts).map fun op => { bind := some x, op := op }
  | ts => (parseOp ts).map fun op => { bind := none, op := op }

/-- The low `k` hexadecimal digits of a number, the most significant first. -/
def hexDigits : Nat → Nat → List Char
  | 0, _ => []
  | k + 1, n => hexDigits k (n / 16) ++ [digitChar (n % 16)]

/-- A bundle as an 18-digit hexadecimal number (R70). -/
def bundleText (b : Bundle) : List Char := '0' :: 'x' :: hexDigits 18 b.toNat

/-- A 32-bit value in decimal. -/
def wordText (w : Word) : List Char := Nat.toDigits 10 w.toNat

/-- A literal pair `(<sh>, <mul>)`, the shift in decimal and the multiplier in hexadecimal. -/
def paramsText (p : Params) : List Char :=
  '(' :: Nat.toDigits 10 p.sh.toNat ++ [',', ' ', '0', 'x'] ++ hexDigits 8 p.mul.toNat ++ [')']

/-- The name of a status (R160). -/
def statusText : Status → List Char
  | .ok => ['O', 'K']
  | .error .domainError => ['D', 'O', 'M', 'A', 'I', 'N', '_', 'E', 'R', 'R', 'O', 'R']
  | .error .invalidParams => ['I', 'N', 'V', 'A', 'L', 'I', 'D', '_', 'P', 'A', 'R', 'A', 'M', 'S']
  | .error .illegalOp => ['I', 'L', 'L', 'E', 'G', 'A', 'L', '_', 'O', 'P']

/-- A response, `-> <STATUS> [r=<value>] [p=(<sh>, <mul>)]` (R70): only the fields that carry a value. -/
def Response.text (rsp : Response) : List Char :=
  ['-', '>', ' '] ++ statusText rsp.status
    ++ (match rsp.r with | some w => [' ', 'r', '='] ++ wordText w | none => [])
    ++ (match rsp.p with | some p => [' ', 'p', '='] ++ paramsText p | none => [])

end Sys2Proof.Machine
end

