-- ==== Sys2Proof/Tests/Slice0.lean ====
section
/-! SUPPORT. Tests with expected values from 95_test_vectors.md and the worked encodings of 30_encoding.md section 6, the WellFormed smoke test, and for each obligation with hypotheses a witness that meets them. -/

namespace Sys2Proof.Tests

open Sys2Proof Sys2Proof.Machine

/-- One requester's `LZC 1` waits after reset. -/
def oneWaits : State := State.reset.send 0 0x4#72

/-- Two requesters' requests wait: `LZC 1` and `SYNTH 7`. -/
def twoWait : State := oneWaits.send 1 0x1D#72

/-- The responses a step returned, as the response side then holds them; none where it stops. -/
def responses : Host.Outcome State Fault Refusal → List Response
  | .next s => s.answers.map Answer.rsp
  | .fault _ => []
  | .refused _ => []

/-- The faults of host runs recorded after a step. -/
def faultCauses : Host.Outcome State Fault Refusal → List ErrorStatus
  | .next s => s.faults.map RunFault.cause
  | .fault _ => []
  | .refused _ => []

/-- The response of one step to the request with the given bits. -/
def served (w : Nat) : List Response := responses (step (State.reset.withFetchWord 72 w))

/-! WellFormed refuses each reserved encoding, and nothing else (30_encoding.md R69). -/

theorem test_wellFormed_refuses_zero_shift_with_multiplier :
    Instr.wellFormed (.divu 100#32 { sh := 0#6, mul := 5#32 }) = false := by decide
theorem test_wellFormed_refuses_shift_33 :
    Instr.wellFormed (.divu 100#32 { sh := 33#6, mul := 0#32 }) = false := by decide
theorem test_wellFormed_refuses_shift_63 :
    Instr.wellFormed (.divu 100#32 { sh := 63#6, mul := 7#32 }) = false := by decide
theorem test_wellFormed_refuses_reserved_opcode : Instr.wellFormed .reserved = false := by decide
theorem test_wellFormed_takes_shift_32 :
    Instr.wellFormed (.divu 100#32 { sh := 32#6, mul := 0#32 }) = true := by decide

/-! Decoding: words of 30_encoding.md section 6 and 95_test_vectors.md section 2.5, and one written out bit by bit. -/

theorem test_decode_lzc_bits :
    decode (0b000000#6 ++ 0x00000000#32 ++ 0x12345678#32 ++ 0b00#2 : BitVec (6 + 32 + 32 + 2)) = .lzc 0x12345678#32 := by decide
theorem test_decode_divu_bits :
    decode (0b000011#6 ++ 0x24924925#32 ++ 0x00000064#32 ++ 0b10#2 : BitVec (6 + 32 + 32 + 2)) =
      .divu 100#32 { sh := 3#6, mul := 0x24924925#32 } := by decide
theorem test_decode_synth_ignores_params : decode 0x1448D159E00000001D#72 = .synth 7#32 := by decide
theorem test_decode_identity_params : decode 0x00000000000000C0E6#72 = .divu 12345#32 { sh := 0#6, mul := 0#32 } := by decide
theorem test_decode_reserved : decode 0x0000000000000048D3#72 = .reserved := by decide
theorem test_decode_ones : decode 0xFFFFFFFFFFFFFFFFFE#72 = .divu 0xFFFFFFFF#32 { sh := 63#6, mul := 0xFFFFFFFF#32 } := by decide
theorem test_encode_divu : encode (.divu 100#32 { sh := 3#6, mul := 0x24924925#32 }) = 0x0C9249249400000192#72 := by decide
theorem test_table_word_is_one_bundle : decodeTableWord 73 0 = none ∧ decodeTableWord 8 1 = some (.synth 0#32) := by decide

/-! One step per instruction (95_test_vectors.md sections 2.1 to 2.5). -/

theorem test_lzc_zero : served 0x0 = [{ status := .ok, r := some 32#32, p := none }] := by decide
theorem test_lzc_mixed : served 0x48D159E0 = [{ status := .ok, r := some 3#32, p := none }] := by decide
theorem test_synth_zero : served 0x1 = [{ status := .error .domainError, r := none, p := none }] := by decide
theorem test_synth_above_half : served 0x200000005 =
    [{ status := .ok, r := none, p := some { sh := 32#6, mul := 0x80000001#32 } }] := by decide
theorem test_divu_general : served 0x0C92492497FFFFFFFE = [{ status := .ok, r := some 0x24924924#32, p := none }] := by decide
theorem test_divu_shift_33 : served 0x840000000000000192 =
    [{ status := .error .invalidParams, r := none, p := none }] := by decide
theorem test_reserved : served 0x48D3 = [{ status := .error .illegalOp, r := none, p := none }] := by decide
theorem test_error_is_recorded : faultCauses (step (State.reset.withFetchWord 72 0x1)) = [.domainError] := by decide

/-! The functions at their corners (95_test_vectors.md sections 2.1 to 2.4). -/

theorem test_lzc_corners : [lzc 0x80000000#32, lzc 0x7FFFFFFF#32, lzc 0x00FFFFFF#32, lzc 0x00010000#32] = [0, 1, 8, 15] := by decide
theorem test_bisection_corners : [lzcBisection 0#32, lzcBisection 1#32, lzcBisection 0x0000FFFF#32] = [32, 31, 16] := by decide
theorem test_synth_three : synthesize 3#32 = .ok { sh := 2#6, mul := 0x55555556#32 } := by rfl
theorem test_synth_largest_full : synthesize 0x40000001#32 = .ok { sh := 31#6, mul := 0xFFFFFFF9#32 } := by rfl
theorem test_synth_half : synthesize 0x80000000#32 = .ok { sh := 31#6, mul := 0#32 } := by rfl
theorem test_divide_mean_reaches_top : divide 0xFFFFFFFF#32 { sh := 31#6, mul := 3#32 } = .ok 2#32 := by rfl
theorem test_divide_compare_at_equality : divide 0x80000001#32 { sh := 32#6, mul := 0x80000001#32 } = .ok 1#32 := by rfl
theorem test_divide_smallest_shift : divide 100#32 { sh := 1#6, mul := 0xFFFFFFFF#32 } = .ok 99#32 := by rfl
theorem test_fold_seven : foldParams 7 = { sh := 3#6, mul := 0x24924925#32 } := by decide

/-! The host's side: reads, text, byte order. -/

theorem test_read_of_no_value_faults : (lzcResponse 1#32).readP = .error .noParamsValue := by rfl
theorem test_read_before_response_faults : oneWaits.responseTo { requester := 0, tag := 0 } = .error .noResponse := by rfl
theorem test_read_after_reset_is_stuck :
    oneWaits.resetEvent.responseTo { requester := 0, tag := 0 } = .error .requesterStuck := by rfl
theorem test_parse_divu :
    parseLine ['D', 'I', 'V', 'U', ' ', '1', '0', '0', ',', ' ', '(', '3', ',', ' ', '0', 'x', '2', '5', ')'] =
      some { bind := none, op := .divu (.num 100) (.pair 3 0x25) } := by decide
theorem test_parse_bound_synth :
    parseLine ['P', ' ', '=', ' ', 'S', 'Y', 'N', 'T', 'H', ' ', '7'] = some { bind := some ['P'], op := .synth (.num 7) } := by decide
theorem test_parse_divc :
    parseLine ['D', 'I', 'V', 'C', ' ', 'v', ',', ' ', '#', '7'] = some { bind := none, op := .divc (.name ['v']) 7 } := by decide
theorem test_digits : [digitValue '9', digitValue 'A', digitValue 'f', digitValue 'G', digitValue '/'] =
    [some 9, some 10, some 15, none, none] ∧ hexDigits 4 0xC0E6 = ['C', '0', 'E', '6'] := by decide
theorem test_response_text :
    (respond (.divu 100#32 { sh := 3#6, mul := 0x24924925#32 })).text = ['-', '>', ' ', 'O', 'K', ' ', 'r', '=', '1', '4'] := by decide
theorem test_store_little : (storeBundle .little 0x0C9249249400000192#72).head? = some 0x92#8 := by decide

/-! Witnesses: data that meet the hypotheses of each obligation that has some. -/

theorem oneWaits_inv : oneWaits.Inv :=
  ⟨by decide, by decide, by decide, by simp [oneWaits, State.send, State.reset]⟩
theorem twoWait_inv : twoWait.Inv :=
  ⟨by decide, by decide, by decide, by simp [twoWait, oneWaits, State.send, State.reset]⟩

theorem witness_ResetReadyForAnyRequest :
    (State.reset = State.reset ∨ ∃ s₀ : State, State.reset = s₀.resetEvent) ∧
    (oneWaits.resetEvent = State.reset ∨ ∃ s₀ : State, oneWaits.resetEvent = s₀.resetEvent) :=
  ⟨.inl rfl, .inr ⟨oneWaits, rfl⟩⟩

theorem witness_ResetLeavesPendingUnanswered :
    oneWaits.Inv ∧ { ticket := { requester := 0, tag := 0 }, bundle := 0x4#72 } ∈ oneWaits.waiting ∧
      Relation.ReflTransGen Transition oneWaits.resetEvent (oneWaits.resetEvent.send 1 0x4#72) :=
  ⟨oneWaits_inv, by decide, .single (.host (.send 1 0x4#72) rfl)⟩

theorem witness_StepRunsDecodedRequest : State.reset.waiting = [] ∧ oneWaits.waiting ≠ [] := by decide
theorem witness_StepAnswersExactlyOneRequest : oneWaits.waiting ≠ [] ∧ twoWait.waiting ≠ [] := by decide

theorem witness_StepKeepsInv : oneWaits.Inv ∧ ∃ t, step oneWaits = .next t := ⟨oneWaits_inv, _, rfl⟩

theorem witness_AnyOrderAndHostEventsKeepInv :
    twoWait.Inv ∧ (∃ t, serveAt 0 twoWait = .next t) ∧ (∃ t, serveAt 1 twoWait = .next t) ∧ ∃ t, serveAt 2 twoWait = .next t :=
  ⟨twoWait_inv, ⟨_, rfl⟩, ⟨_, rfl⟩, ⟨_, rfl⟩⟩

theorem witness_IgnoredFieldsHaveNoEffect :
    BitVec.extractLsb' 0 34 0x1448D159E00000001D#72 = BitVec.extractLsb' 0 34 0x1D#72 ∧
    BitVec.extractLsb' 0 2 0x1448D159E00000001D#72 ≠ 0b10#2 ∧ BitVec.extractLsb' 0 2 0x4#72 = 0b00#2 ∧
    BitVec.extractLsb' 0 2 0x1D#72 = 0b01#2 ∧ BitVec.extractLsb' 0 2 0xFFFFFFFFFFFFFFFFFE#72 = 0b10#2 := by decide

theorem witness_EveryBundleDecodes :
    BitVec.extractLsb' 0 2 0xFFFFFFFFFFFFFFFFFC#72 = 0b00#2 ∧ BitVec.extractLsb' 0 2 0x1#72 = 0b01#2 ∧
    BitVec.extractLsb' 0 2 0x2#72 = 0b10#2 ∧ BitVec.extractLsb' 0 2 0xFFFFFFFFFFFFFFFFFF#72 = 0b11#2 := by decide

theorem witness_ResponseFieldsByOutcome :
    1#32 ≠ 0#32 ∧ 0xFFFFFFFF#32 ≠ 0#32 ∧
    admissible { sh := 0#6, mul := 0#32 } = true ∧ admissible { sh := 1#6, mul := 0xFFFFFFFF#32 } = true ∧
    admissible { sh := 32#6, mul := 0#32 } = true ∧ admissible { sh := 33#6, mul := 0#32 } = false ∧
    admissible { sh := 0#6, mul := 1#32 } = false ∧
    (Response.raise .illegalOp).r = none ∧ (Response.raise .illegalOp).p = none := by decide

theorem witness_StatusCodesAndCauses :
    (respond (.synth 0#32)).status = .error .domainError ∧
    (respond (.divu 0#32 { sh := 33#6, mul := 0#32 })).status = .error .invalidParams ∧
    (respond (.divu 0#32 { sh := 0#6, mul := 1#32 })).status = .error .invalidParams ∧
    (respond .reserved).status = .error .illegalOp := by decide

theorem witness_LzcCountsLeadingZeros :
    32 - lzc 0#32 ≤ 0 ∧ 32 - lzc 1#32 ≤ 1 ∧ 32 - lzc 0x80000000#32 ≤ 32 ∧ lzc 1#32 < 32 ∧ 1#32 ≠ 0#32 := by decide

theorem witness_LzcBoundsItsOperand :
    1#32 ≠ 0#32 ∧ 31 - lzc 1#32 < 1 ∧ 0xFFFFFFFF#32 ≠ 0#32 ∧ 31 - lzc 0xFFFFFFFF#32 < 32 := by decide

theorem witness_SynthAnswersParams : 1#32 ≠ 0#32 ∧ 0x80000000#32 ≠ 0#32 ∧ 0x80000001#32 ≠ 0#32 := by decide

theorem witness_SynthClosedForm :
    (synthesize 1#32 = .ok { sh := 0#6, mul := 0#32 }) ∧
    (synthesize 2#32 = .ok { sh := 1#6, mul := 0#32 } ∧ (2#32 : Word).toNat = 2 ^ 1) ∧
    (synthesize 0x80000000#32 = .ok { sh := 31#6, mul := 0#32 } ∧ (0x80000000#32 : Word).toNat = 2 ^ 31) ∧
    (synthesize 0x7FFFFFFF#32 = .ok { sh := 31#6, mul := 3#32 } ∧ 2 ≤ (0x7FFFFFFF#32 : Word).toNat ∧
      (0x7FFFFFFF#32 : Word).toNat ≤ 0x80000000) ∧
    (synthesize 0x80000001#32 = .ok { sh := 32#6, mul := 0x80000001#32 } ∧ 0x80000001 ≤ (0x80000001#32 : Word).toNat) ∧
    ((1 : Nat) ≤ 1 ∧ 1 ≤ 31 ∧ (1 : Nat) < 2 ∧ 2 ≤ 2 ^ 1) :=
  ⟨rfl, ⟨rfl, by decide⟩, ⟨rfl, by decide⟩, ⟨rfl, by decide, by decide⟩, ⟨rfl, by decide⟩, by decide⟩

/-- 3 lies in the row of the divisors that are no powers of two. -/
theorem witness_SynthClosedForm_not_a_power :
    synthesize 3#32 = .ok { sh := 2#6, mul := 0x55555556#32 } ∧ 2 ≤ (3#32 : Word).toNat ∧ ∀ j, (3#32 : Word).toNat ≠ 2 ^ j := by
  refine ⟨rfl, by decide, fun j h => ?_⟩
  have hj : (3 : Nat) = 2 ^ j := h
  rcases j with _ | _ | j
  · omega
  · omega
  · rw [pow_add] at hj; omega

theorem witness_SynthMultiplierIsTruncated :
    synthesize 1#32 = .ok { sh := 0#6, mul := 0#32 } ∧ (0#6).toNat ≤ 31 ∧
    synthesize 0x80000000#32 = .ok { sh := 31#6, mul := 0#32 } ∧ (31#6).toNat ≤ 31 := ⟨rfl, by decide, rfl, by decide⟩

theorem witness_SynthIsOneToOne : synthesize 7#32 = .ok { sh := 3#6, mul := 0x24924925#32 } ∧ (0 : Nat) ≤ 31 ∧ (31 : Nat) ≤ 31 :=
  ⟨rfl, by decide, by decide⟩

theorem witness_SynthOutputsMeetParamsInvariants :
    synthesize 2#32 = .ok { sh := 1#6, mul := 0#32 } ∧ (1#6 ≠ 32#6) ∧ (2#32 ≠ 1#32) ∧
    synthesize 0x80000001#32 = .ok { sh := 32#6, mul := 0x80000001#32 } ∧ 0x80000001 ≤ (0x80000001#32 : Word).toNat ∧
    synthesize 0x80000000#32 = .ok { sh := 31#6, mul := 0#32 } ∧ (31#6 ≠ 32#6) ∧ (0x80000000#32 ≠ 1#32) ∧
    synthesize 1#32 = .ok { sh := 0#6, mul := 0#32 } :=
  ⟨rfl, by decide, by decide, rfl, by decide, rfl, by decide, by decide, rfl⟩

theorem witness_DivuAnswersTheQuotient :
    32 < (33#6).toNat ∧ (0#6 = 0#6 ∧ 1#32 ≠ 0#32) ∧ (32#6).toNat ≤ 32 ∧ (32#6 = 0#6 → 0#32 = 0#32) ∧
    ((0#6).toNat ≤ 32 ∧ (0#6 = 0#6 → 0#32 = 0#32)) ∧ ((1#6).toNat ≤ 32 ∧ (1#6 = 0#6 → 5#32 = 0#32)) := by decide

theorem witness_RegimesInOrder :
    (0#6 ≠ 32#6 ∧ 0#32 = 0#32 ∧ 0#6 = 0#6) ∧ (31#6 ≠ 32#6 ∧ ¬ (0#32 = 0#32 ∧ 31#6 = 0#6)) ∧
    admissible { sh := 1#6, mul := 0#32 } = true ∧ regime { sh := 1#6, mul := 0#32 } = .general ∧
    admissible { sh := 31#6, mul := 0xFFFFFFFF#32 } = true ∧ regime { sh := 31#6, mul := 0xFFFFFFFF#32 } = .general := by decide

theorem witness_GeneralRegimeNeverWraps : 1 ≤ (1#6).toNat ∧ (1#6).toNat ≤ 31 ∧ 1 ≤ (31#6).toNat ∧ (31#6).toNat ≤ 31 := by decide

theorem witness_DivuBySynthIsDivision : synthesize 7#32 = .ok { sh := 3#6, mul := 0x24924925#32 } ∧
    synthesize 0x80000001#32 = .ok { sh := 32#6, mul := 0x80000001#32 } ∧ synthesize 1#32 = .ok { sh := 0#6, mul := 0#32 } :=
  ⟨rfl, rfl, rfl⟩

theorem witness_SynthThenDivuDivides : 1#32 ≠ 0#32 ∧ 0xFFFFFFFF#32 ≠ 0#32 := by decide

theorem witness_AdmissibleParamsNeedNotBeSynthesized :
    Synthesized { sh := 3#6, mul := 0x24924925#32 } ∧ admissible { sh := 32#6, mul := 0#32 } = true :=
  ⟨⟨7#32, rfl⟩, by decide⟩

theorem witness_ReservedAnswersIllegalOp : BitVec.extractLsb' 0 2 0x48D3#72 = 0b11#2 := by decide

theorem witness_ResponseDependsOnTheRequestAlone :
    twoWait.waiting[1]? = some { ticket := { requester := 1, tag := 1 }, bundle := 0x1D#72 } := by decide

theorem witness_ExecFrame : (∃ t, exec (.lzc 1#32) oneWaits = .next t) ∧ (∃ t, exec .reserved oneWaits = .next t) :=
  ⟨⟨_, rfl⟩, ⟨_, rfl⟩⟩

theorem witness_FaultsAreRecordedAndNeverCleared :
    ∃ (s t u : State) (q : Request), s.waiting[0]? = some q ∧ (respond (decode q.bundle)).status = .error .domainError ∧
      serveAt 0 s = .next t ∧ { ticket := q.ticket, cause := .domainError } ∈ t.faults ∧ Relation.ReflTransGen Transition t u :=
  ⟨State.reset.send 0 0x1#72, _, _, { ticket := { requester := 0, tag := 0 }, bundle := 0x1#72 }, rfl, by decide, rfl, by decide,
    .single (.host .reset rfl)⟩

/-- Requester 0 is dutiful though requester 1 asks for a division by zero. -/
theorem witness_DutifulHostStaysFaultless :
    (∀ q ∈ (oneWaits.send 1 0x1#72).waiting, q.ticket.requester = 0 → Dutiful (decode q.bundle)) ∧
    (oneWaits.send 1 0x1#72).Faultless 0 ∧ ∃ t, Transition (oneWaits.send 1 0x1#72) t := by
  refine ⟨fun q hq h0 => ?_, by simp [State.Faultless, oneWaits, State.send, State.reset], _, .serve 1 rfl⟩
  have hq' : q = { ticket := { requester := 0, tag := 0 }, bundle := 0x4#72 } ∨
      q = { ticket := { requester := 1, tag := 1 }, bundle := 0x1#72 } := by
    simpa [oneWaits, State.send, State.reset] using hq
  rcases hq' with rfl | rfl
  · exact trivial
  · exact absurd h0 (by decide)

theorem witness_OrderOfServiceChangesNoResponse : twoWait.waiting =
    [{ ticket := { requester := 0, tag := 0 }, bundle := 0x4#72 }, { ticket := { requester := 1, tag := 1 }, bundle := 0x1D#72 }] := by
  decide

/-- A fair run in which a request waits: it is served at the first moment, and the block then has nothing to do. -/
theorem witness_FairRunsAnswerEveryRequest : ∃ f : Nat → State, Run f ∧ Fair f ∧
    { ticket := { requester := 0, tag := 0 }, bundle := 0x4#72 } ∈ (f 0).waiting := by
  let done : State :=
    { oneWaits with
      waiting := []
      serving := { ticket := { requester := 0, tag := 0 }, bundle := 0x4#72 }
      answers := [{ request := { ticket := { requester := 0, tag := 0 }, bundle := 0x4#72 }, rsp := lzcResponse 1#32 }] }
  let f : Nat → State
    | 0 => oneWaits
    | _ + 1 => done
  refine ⟨f, fun n => ?_, fun n q _ => ⟨n + 1, by omega, List.not_mem_nil⟩, by decide⟩
  cases n with
  | zero => exact .step (show step oneWaits = .next done from rfl)
  | succ n => exact .step (show step done = .next done from rfl)

theorem witness_DivcExpansionsAgree :
    (1 : Nat) ≤ 1 ∧ 1 < 2 ^ 32 ∧ (1 : Nat) ≤ 0xFFFFFFFF ∧ 0xFFFFFFFF < 2 ^ 32 ∧ AsmArg.num 100 ≠ .name ['P'] ∧
    AsmArg.name ['v'] ≠ .name ['P'] := by decide

theorem witness_DivcExpansionsAgree_values :
    (AsmArg.num 100).value [] = .ok 100#32 ∧ (AsmArg.name ['v']).value [(['v'], .word 5#32)] = .ok 5#32 := ⟨rfl, rfl⟩

theorem witness_FoldedParamsEqualSynth : 1#32 ≠ 0#32 ∧ 0xFFFFFFFF#32 ≠ 0#32 := by decide

theorem witness_DivuWaitsForItsSynth :
    (AsmArg.num 0xFFFFFFFF).value [] = .ok 0xFFFFFFFF#32 ∧ List.lookup ['P'] ([] : HostNames) = none ∧
    (AsmArg.name ['v']).value [(['v'], .word 5#32)] = .ok 5#32 ∧
    List.lookup ['P'] ([(['v'], .word 5#32)] : HostNames) = none ∧ 1#32 ≠ 0#32 :=
  ⟨rfl, rfl, rfl, rfl, by decide⟩

theorem witness_StoredBundlesDecode : ([] : List Byte).length ≠ 9 ∧ (List.replicate 10 0#8).length ≠ 9 := by decide

end Sys2Proof.Tests
end

/-! The leading-zero count as a natural number (40_leading_zero_count.md R80): 32 less the number of binary digits. -/

namespace Sys2Proof.Machine

/-- With `i` bits still to look at, the loop adds the zeros above the highest set bit among them. -/
theorem lzcLoop_eq_sub_size (x : Word) (i n : Nat) (h : x.toNat < 2 ^ i) :
    lzcLoop x i n = n + (i - Nat.size x.toNat) := by
  induction i generalizing n with
  | zero => simp [lzcLoop]
  | succ i ih =>
    have hsize : Nat.size x.toNat ≤ i + 1 := Nat.size_le.2 h
    unfold lzcLoop
    split
    next hbit =>
      have : i < Nat.size x.toNat := Nat.lt_size.2 (Nat.ge_two_pow_of_testBit hbit)
      omega
    next hbit =>
      have hlt : x.toNat < 2 ^ i := by
        refine Nat.lt_pow_two_of_testBit _ fun j hj => ?_
        obtain rfl | hj := hj.eq_or_lt
        · simpa [BitVec.getLsbD] using hbit
        · exact Nat.testBit_lt_two_pow (h.trans_le (Nat.pow_le_pow_right two_pos hj))
      have : Nat.size x.toNat ≤ i := Nat.size_le.2 hlt
      rw [ih (n + 1) hlt]
      omega

/-- A word has at most 32 binary digits. -/
theorem size_toNat_le (x : Word) : Nat.size x.toNat ≤ 32 := Nat.size_le.2 x.isLt

/-- LZC counts the 32 bits less the binary digits of its operand (R80), zero included. -/
theorem lzc_eq_sub_size (x : Word) : lzc x = 32 - Nat.size x.toNat := by
  simpa [lzc] using lzcLoop_eq_sub_size x 32 0 x.isLt

end Sys2Proof.Machine

/-! What SYNTH computes, as natural numbers (41_param_synthesizer.md R102 to R107): the shift is `ceil(log2 d)`, the full multiplier `ceil(2^(32+sh) / d)`, and each determines the divisor it came from. -/

namespace Sys2Proof.Machine

/-- Every divisor but zero is a positive number. -/
theorem toNat_pos_of_ne_zero {d : Word} (hd : d ≠ 0#32) : 0 < d.toNat :=
  Nat.pos_of_ne_zero fun h => hd (BitVec.eq_of_toNat_eq h)

/-- SYNTH answers params for every divisor but 0, and those are its shift and its stored multiplier (R106). -/
theorem synthesize_eq_ok_iff (d : Word) (p : Params) :
    synthesize d = .ok p ↔ d ≠ 0#32 ∧ p = { sh := BitVec.ofNat 6 (synthShift d), mul := synthMul (synthShift d) d } := by
  unfold synthesize
  split
  next hd => simp [hd]
  next hd => simp [hd, eq_comm]

/-- The test of R102 finds the powers of two. -/
theorem isPowerOfTwo_iff {d : Word} (hd : d ≠ 0#32) : isPowerOfTwo d = true ↔ ∃ j, d.toNat = 2 ^ j := by
  have hpos := toNat_pos_of_ne_zero hd
  have hpred : (d - 1#32).toNat = d.toNat - 1 := by bv_omega
  calc isPowerOfTwo d = true
    _ ↔ d.toNat &&& d.toNat - 1 = 0 := by
      rw [isPowerOfTwo, beq_iff_eq, ← BitVec.toNat_inj, BitVec.toNat_and, hpred]
      rfl
    _ ↔ ∃ j, d.toNat = 2 ^ j := Nat.and_sub_one_eq_zero_iff_isPowerOfTwo hpos.ne'

/-- R107: in every row the shift is `ceil(log2 d)`. -/
theorem synthShift_eq_clog {d : Word} (hd : d ≠ 0#32) : synthShift d = Nat.clog 2 d.toNat := by
  have hsize : 0 < Nat.size d.toNat := Nat.size_pos.2 (toNat_pos_of_ne_zero hd)
  have hbase : synthBase d = Nat.size d.toNat - 1 := by
    have := size_toNat_le d
    rw [synthBase, lzc_eq_sub_size]
    omega
  by_cases hpow : ∃ j, d.toNat = 2 ^ j
  · obtain ⟨j, hj⟩ := hpow
    simp [synthShift, (isPowerOfTwo_iff hd).2 ⟨j, hj⟩, hbase, hj, Nat.size_pow, Nat.clog_pow]
  · have hclog : Nat.clog 2 d.toNat ≤ Nat.size d.toNat := Nat.clog_le_of_le_pow (Nat.lt_size_self _).le
    have hsize_le : Nat.size d.toNat ≤ Nat.clog 2 d.toNat :=
      Nat.size_le.2 ((Nat.le_pow_clog one_lt_two _).lt_of_ne fun h => hpow ⟨_, h⟩)
    rw [synthShift, if_neg (mt (isPowerOfTwo_iff hd).1 hpow), hbase]
    omega

/-- The shift stays within its 6-bit field (R107). -/
theorem synthShift_le {d : Word} (hd : d ≠ 0#32) : synthShift d ≤ 32 := by
  rw [synthShift_eq_clog hd]
  exact Nat.clog_le_of_le_pow d.isLt.le

/-- The shift is large enough to cover the divisor. -/
theorem toNat_le_two_pow_synthShift {d : Word} (hd : d ≠ 0#32) : d.toNat ≤ 2 ^ synthShift d := by
  rw [synthShift_eq_clog hd]
  exact Nat.le_pow_clog one_lt_two _

/-- The shift is the smallest that covers the divisor. -/
theorem two_pow_synthShift_lt {d : Word} (hd : d ≠ 0#32) : 2 ^ synthShift d < 2 * d.toNat := by
  have hpos := toNat_pos_of_ne_zero hd
  rw [synthShift_eq_clog hd]
  cases hc : Nat.clog 2 d.toNat with
  | zero => omega
  | succ c =>
    have : 2 ^ c < d.toNat := (Nat.lt_clog_iff_pow_lt one_lt_two).1 (by omega)
    omega

/-- The full multiplier has bit 32 as its highest set bit (R104). -/
theorem synthFull_bounds {d : Word} (hd : d ≠ 0#32) :
    2 ^ 32 ≤ synthFull (synthShift d) d ∧ synthFull (synthShift d) d < 2 ^ 33 := by
  have hpos := toNat_pos_of_ne_zero hd
  have hlt := d.isLt
  have hle := toNat_le_two_pow_synthShift hd
  have hgt := two_pow_synthShift_lt hd
  rw [synthFull, synthNum, pow_add, Nat.le_div_iff_mul_le hpos, Nat.div_lt_iff_lt_mul hpos]
  omega

/-- Below shift 32 the stored multiplier is the full one without its bit 32 (R104). -/
theorem synthFull_eq_add_toNat_synthMul {d : Word} (hd : d ≠ 0#32) (hsh : synthShift d ≠ 32) :
    synthFull (synthShift d) d = 2 ^ 32 + (synthMul (synthShift d) d).toNat := by
  obtain ⟨hlo, hhi⟩ := synthFull_bounds hd
  rw [synthMul, if_neg hsh, BitVec.toNat_ofNat]
  omega

/-- R107: within one shift a larger divisor has a smaller full multiplier. -/
theorem fullMultiplier_lt_of_lt {sh d d' : Nat} (hsh : sh ≤ 32) (hd : 1 ≤ d) (hlt : d < d') (hle : d' ≤ 2 ^ sh) :
    (2 ^ (32 + sh) + d' - 1) / d' < (2 ^ (32 + sh) + d - 1) / d := by
  have hd' : d' ≤ 2 ^ 32 := hle.trans (Nat.pow_le_pow_right two_pos hsh)
  have hfull : 2 ^ 32 ≤ (2 ^ (32 + sh) + d' - 1) / d' := by
    rw [Nat.le_div_iff_mul_le (by omega), pow_add]
    omega
  have hceil := Nat.div_mul_le_self (2 ^ (32 + sh) + d' - 1) d'
  rw [← Nat.succ_le_iff, Nat.le_div_iff_mul_le hd]
  generalize (2 ^ (32 + sh) + d' - 1) / d' = full at *
  have hstep : full * d + full ≤ full * d' := Nat.mul_le_mul_left full hlt
  rw [Nat.succ_mul]
  omega

/-- Two divisors that one shift covers, with the same full multiplier, are one divisor. -/
theorem eq_of_synthFull_eq {sh : Nat} {d d' : Word} (hsh : sh ≤ 32) (hd : d ≠ 0#32) (hd' : d' ≠ 0#32)
    (hle : d.toNat ≤ 2 ^ sh) (hle' : d'.toNat ≤ 2 ^ sh) (hfull : synthFull sh d = synthFull sh d') : d = d' := by
  obtain hlt | heq | hgt := lt_trichotomy d.toNat d'.toNat
  · exact absurd hfull (fullMultiplier_lt_of_lt hsh (toNat_pos_of_ne_zero hd) hlt hle').ne'
  · exact BitVec.eq_of_toNat_eq heq
  · exact absurd hfull (fullMultiplier_lt_of_lt hsh (toNat_pos_of_ne_zero hd') hgt hle).ne

/-- Two divisors with the same shift and the same stored multiplier are one divisor. -/
theorem eq_of_synthMul_eq {d d' : Word} (hd : d ≠ 0#32) (hd' : d' ≠ 0#32) (hsh : synthShift d = synthShift d')
    (hmul : synthMul (synthShift d) d = synthMul (synthShift d') d') : d = d' := by
  by_cases h32 : synthShift d = 32
  · simpa [synthMul, h32, ← hsh] using hmul
  · have hfull : synthFull (synthShift d) d = synthFull (synthShift d') d' := by
      rw [synthFull_eq_add_toNat_synthMul hd h32, synthFull_eq_add_toNat_synthMul hd' (hsh ▸ h32), hmul]
    rw [← hsh] at hfull
    exact eq_of_synthFull_eq (synthShift_le hd) hd hd' (toNat_le_two_pow_synthShift hd)
      (hsh ▸ toNat_le_two_pow_synthShift hd') hfull

/-- No two divisors share their params (R28). -/
theorem eq_of_synthesize_eq_ok {d d' : Word} {p : Params} (h : synthesize d = .ok p) (h' : synthesize d' = .ok p) :
    d = d' := by
  obtain ⟨hd, rfl⟩ := (synthesize_eq_ok_iff d p).1 h
  obtain ⟨hd', hp⟩ := (synthesize_eq_ok_iff d' _).1 h'
  obtain ⟨hsh6, hmul⟩ := Params.mk.inj hp
  have hsh : synthShift d = synthShift d' := by
    have := synthShift_le hd
    have := synthShift_le hd'
    bv_omega
  exact eq_of_synthMul_eq hd hd' hsh hmul

/-- SYNTH of a power of two: the exponent, and a full multiplier of which nothing but bit 32 is left (R28, R107). -/
theorem synthesize_of_toNat_eq_two_pow {d : Word} {j : Nat} (h : d.toNat = 2 ^ j) :
    synthesize d = .ok { sh := BitVec.ofNat 6 j, mul := 0#32 } := by
  have hd : d ≠ 0#32 := by
    rintro rfl
    exact (Nat.two_pow_pos j).ne h
  have hsh : synthShift d = j := by rw [synthShift_eq_clog hd, h, Nat.clog_pow _ _ one_lt_two]
  have hj : j ≠ 32 := by
    rintro rfl
    exact d.isLt.ne h
  have hfull : synthFull j d = 2 ^ 32 := by
    have hpos : 1 ≤ 2 ^ j := Nat.one_le_two_pow
    rw [synthFull, synthNum, h, Nat.add_sub_assoc hpos, pow_add, Nat.mul_comm, Nat.mul_add_div hpos,
      Nat.div_eq_of_lt (Nat.sub_lt hpos one_pos), Nat.add_zero]
  rw [synthesize_eq_ok_iff, hsh, synthMul, if_neg hj, hfull]
  exact ⟨hd, rfl⟩

end Sys2Proof.Machine

/-! The obligations of 10_state.md: SYNTH is one-to-one (R28), and a response is a function of its request alone (R20). -/

namespace Sys2Proof.Machine

/-- Settles O25: the shift and the stored multiplier give back the full one, which falls strictly as the divisor grows within one shift. -/
theorem synthIsOneToOne : Obligations.SynthIsOneToOne := by
  refine ⟨fun d d' p => eq_of_synthesize_eq_ok, rfl, rfl, fun j hj => synthesize_of_toNat_eq_two_pow ?_⟩
  rw [BitVec.toNat_ofNat]
  exact Nat.mod_eq_of_lt (Nat.pow_lt_pow_right one_lt_two (by omega))

/-- Settles O35: the function is `respond` of the decoded bundle, which names no state. -/
theorem responseDependsOnTheRequestAlone : Obligations.ResponseDependsOnTheRequestAlone := by
  refine ⟨fun b => respond (decode b), fun s k q hq => ?_⟩
  obtain ⟨hnone, -⟩ | ⟨q', hq', hserve⟩ := serveAt_cases k s
  · simp [hq] at hnone
  · obtain rfl : q = q' := Option.some.inj (hq.symm.trans hq')
    exact ⟨_, hserve, by simp⟩

end Sys2Proof.Machine

/-! The decoder, one lemma per row of R64 (30_encoding.md R63, R65, R66): a bundle decodes by bits 1:0, its operands taken as they stand. -/

namespace Sys2Proof

/-- A field within the PARAMS field of a bundle is the field of the bundle 34 bits further up (R60, R62). -/
theorem extract_paramsField (b : Bundle) (start len : Nat) (h : start + len ≤ 38) :
    (b.extractLsb' 34 38).extractLsb' start len = b.extractLsb' (34 + start) len := by
  refine BitVec.eq_of_getLsbD_eq fun i hi => ?_
  have hlt : start + i < 38 := by omega
  simp [hi, hlt, Nat.add_assoc]

/-- The params operand of a bundle: `sh` in bits 71:66, `mul` in bits 65:34 (R60, R62). -/
theorem unpackParams_paramsField (b : Bundle) :
    unpackParams (b.extractLsb' 34 38) = { sh := b.extractLsb' 66 6, mul := b.extractLsb' 34 32 } := by
  simp [unpackParams, extract_paramsField]

/-- The params value of a PARAMS field holds every bit of it. -/
theorem packParams_unpackParams (f : BitVec 38) : packParams (unpackParams f) = f :=
  (BitVec.extractLsb'_append_extractLsb'_eq_extractLsb' rfl).trans BitVec.extractLsb'_eq_self

theorem decode_of_op_lzc {b : Bundle} (h : b.extractLsb' 0 2 = 0b00#2) : decode b = .lzc (b.extractLsb' 2 32) := by
  simp [decode, reqFields, h]

theorem decode_of_op_synth {b : Bundle} (h : b.extractLsb' 0 2 = 0b01#2) : decode b = .synth (b.extractLsb' 2 32) := by
  simp [decode, reqFields, h]

theorem decode_of_op_divu {b : Bundle} (h : b.extractLsb' 0 2 = 0b10#2) : decode b =
    .divu (b.extractLsb' 2 32) { sh := b.extractLsb' 66 6, mul := b.extractLsb' 34 32 } := by
  simp [decode, reqFields, h, unpackParams_paramsField]

theorem decode_of_op_reserved {b : Bundle} (h : b.extractLsb' 0 2 = 0b11#2) : decode b = .reserved := by
  simp [decode, reqFields, h]

/-- R66: bits 1:0 pick one of the four rows. -/
theorem op_cases (op : BitVec 2) : op = 0b00#2 ∨ op = 0b01#2 ∨ op = 0b10#2 ∨ op = 0b11#2 := by
  revert op
  decide

/-- R65: only DIVU reads the bits above 33. -/
theorem decode_eq_of_low_bits_eq {b b' : Bundle} (hlow : b.extractLsb' 0 34 = b'.extractLsb' 0 34)
    (hop : b.extractLsb' 0 2 ≠ 0b10#2) : decode b = decode b' := by
  have field_eq {start len : Nat} (h : start + len ≤ 34) : b.extractLsb' start len = b'.extractLsb' start len := by
    rw [← BitVec.extractLsb'_extractLsb'_of_le h, hlow, BitVec.extractLsb'_extractLsb'_of_le h]
  have hop' : b.extractLsb' 0 2 = b'.extractLsb' 0 2 := field_eq (by decide)
  have ha : b.extractLsb' 2 32 = b'.extractLsb' 2 32 := field_eq (by decide)
  obtain h | h | h | h := op_cases (b.extractLsb' 0 2)
  · rw [decode_of_op_lzc h, decode_of_op_lzc (hop' ▸ h), ha]
  · rw [decode_of_op_synth h, decode_of_op_synth (hop' ▸ h), ha]
  · exact absurd h hop
  · rw [decode_of_op_reserved h, decode_of_op_reserved (hop' ▸ h)]

end Sys2Proof

/-! The responses by outcome (30_encoding.md R67), and the fields of the RSP bundle that carry no value. -/

namespace Sys2Proof.Machine

/-- SYNTH's response where it answers params (R106). -/
theorem synthResponse_of_ok {d : Word} {p : Params} (h : synthesize d = .ok p) :
    synthResponse d = Response.params p := by
  simp [synthResponse, h]

/-- SYNTH has params for every divisor but 0 (R101, R106). -/
theorem exists_synthesize_eq_ok {d : Word} (hd : d ≠ 0#32) : ∃ p, synthesize d = .ok p :=
  ⟨_, (synthesize_eq_ok_iff d _).2 ⟨hd, rfl⟩⟩

/-- DIVU with admissible params answers the quotient of R132's regime (R136). -/
theorem divide_of_admissible (v : Word) {p : Params} (h : admissible p = true) : divide v p = .ok (quotient v p) := by
  simp [divide, h]

/-- DIVU with any other params answers INVALID_PARAMS (R131). -/
theorem divide_of_not_admissible (v : Word) {p : Params} (h : admissible p = false) :
    divide v p = .error .invalidParams := by
  simp [divide, h]

theorem divuResponse_of_admissible (a : Word) {p : Params} (h : admissible p = true) :
    divuResponse a p = Response.result (quotient a p) := by
  rw [divuResponse, divide_of_admissible a h]

theorem divuResponse_of_not_admissible (a : Word) {p : Params} (h : admissible p = false) :
    divuResponse a p = Response.raise .invalidParams := by
  rw [divuResponse, divide_of_not_admissible a h]

/-- Bits 33:2 of the RSP bundle: the result, or what the block drives where there is none (R61, R67). -/
theorem extract_r_wire (rsp : Response) (undriven : Bundle) :
    (rsp.wire undriven).extractLsb' 2 32 = rsp.r.getD (undriven.extractLsb' 2 32) :=
  extract_mid _ _ _

/-- Bits 71:34 of the RSP bundle: the params, or what the block drives where there are none (R61, R67). -/
theorem extract_p_wire (rsp : Response) (undriven : Bundle) :
    (rsp.wire undriven).extractLsb' 34 38 =
      packParams (rsp.p.getD (unpackParams (undriven.extractLsb' 34 38))) :=
  extract_high _ _ _

end Sys2Proof.Machine

/-! Params folded ahead of time are SYNTH's (41_param_synthesizer.md R107, R108): one lemma per row of R107. -/

namespace Sys2Proof.Machine

/-- `ceil(log2 d)` as the host computes it, from `floor(log2 (d - 1))`. -/
theorem clog_two_eq_log2_pred_add_one {d : Nat} (hd : 2 ≤ d) : Nat.clog 2 d = Nat.log2 (d - 1) + 1 := by
  have hle : 2 ^ Nat.log2 (d - 1) ≤ d - 1 := Nat.log2_self_le (by omega)
  have hlt : d - 1 < 2 ^ (Nat.log2 (d - 1) + 1) := Nat.lt_log2_self
  apply le_antisymm
  · exact Nat.clog_le_of_le_pow (by omega)
  · exact (Nat.lt_clog_iff_pow_lt one_lt_two).2 (by omega)

/-- From `0x80000001` on the params are the shift 32 and the divisor itself (R103). -/
theorem synthesize_of_ge {d : Word} (h : 0x80000001 ≤ d.toNat) : synthesize d = .ok { sh := 32#6, mul := d } := by
  have hd : d ≠ 0#32 := by bv_omega
  have hsh : synthShift d = 32 := by
    have hpow : 2 ^ 31 < 2 ^ synthShift d := lt_of_lt_of_le (by omega) (toNat_le_two_pow_synthShift hd)
    have := (Nat.pow_lt_pow_iff_right one_lt_two).1 hpow
    have := synthShift_le hd
    omega
  rw [synthesize_eq_ok_iff, synthMul, hsh, if_pos rfl]
  exact ⟨hd, rfl⟩

/-- Below `0x80000001` the multiplier is the full one without its bit 32 (R104). -/
theorem synthesize_of_lt {d : Word} (hd : d ≠ 0#32) (h : d.toNat < 0x80000001) :
    synthesize d = .ok { sh := BitVec.ofNat 6 (synthShift d)
                         mul := BitVec.ofNat 32 (synthFull (synthShift d) d - 2 ^ 32) } := by
  have hsh : synthShift d ≠ 32 := fun h32 => by
    have := two_pow_synthShift_lt hd
    rw [h32] at this
    omega
  rw [synthesize_eq_ok_iff, synthFull_eq_add_toNat_synthMul hd hsh, Nat.add_sub_cancel_left, BitVec.ofNat_toNat,
    BitVec.setWidth_eq]
  exact ⟨hd, rfl⟩

/-- R108: the params a host folds for a divisor are SYNTH's. -/
theorem synthesize_eq_ok_foldParams {d : Word} (hd : d ≠ 0#32) : synthesize d = .ok (foldParams d.toNat) := by
  have hpos := toNat_pos_of_ne_zero hd
  unfold foldParams
  split_ifs with h1 hge
  · exact synthesize_of_toNat_eq_two_pow (j := 0) h1
  · rw [synthesize_of_ge hge, BitVec.ofNat_toNat, BitVec.setWidth_eq]
  · rw [synthesize_of_lt hd (by omega), synthFull, synthNum, Nat.add_sub_assoc hpos, synthShift_eq_clog hd,
      clog_two_eq_log2_pred_add_one (by omega)]

end Sys2Proof.Machine

/-! The assembler (30_encoding.md R70, R71): what an operand's value depends on, and what a line assembles to. -/

namespace Sys2Proof.Machine

/-- The numeral of a 32-bit value. -/
theorem value_num_of_lt (names : HostNames) {n : Nat} (h : n < 2 ^ 32) :
    (AsmArg.num n).value names = .ok (BitVec.ofNat 32 n) :=
  if_pos h

/-- A new binding leaves every operand but its own name as it was. -/
theorem value_cons_of_ne {a : AsmArg} {P : HostName} (ha : a ≠ .name P) (x : HostValue) (names : HostNames) :
    a.value ((P, x) :: names) = a.value names := by
  cases a with
  | num n => rfl
  | name y =>
    have hy : (y == P) = false := beq_false_of_ne fun h => ha (congrArg _ h)
    simp only [AsmArg.value, List.lookup_cons, hy]

/-- The literal pair of a params value stands for it (R60, R70). -/
theorem value_pair_toNat (names : HostNames) (p : Params) :
    (AsmParams.pair p.sh.toNat p.mul.toNat).value names = .ok p := by
  simp [AsmParams.value, p.sh.isLt, p.mul.isLt]

/-- A name just bound to params stands for them. -/
theorem value_name_cons_params (P : HostName) (p : Params) (names : HostNames) :
    (AsmParams.name P).value ((P, .params p) :: names) = .ok p := by
  simp [AsmParams.value]

/-- A DIVU line whose operands have values assembles to their DIVU (R70). -/
theorem assembleDivu_of_ok {names : HostNames} {a : AsmArg} {p : AsmParams} {v : Word} {q : Params}
    (ha : a.value names = .ok v) (hp : p.value names = .ok q) : assembleDivu names a p = .ok (.divu v q) := by
  simp [assembleDivu, ha, hp]

/-- R71 expands DIVC for the divisors `1..0xFFFFFFFF`. -/
theorem divcDivisor_of_lt {d : Nat} (hpos : 1 ≤ d) (hlt : d < 2 ^ 32) : divcDivisor d = .ok d := by
  rw [divcDivisor, if_neg (by omega), if_pos hlt]

/-- A DIVC line assembles to the DIVU of its folded pair (R71). -/
theorem assemble_divc {names : HostNames} {a : AsmArg} {d : Nat} {v : Word} (hpos : 1 ≤ d) (hlt : d < 2 ^ 32)
    (ha : a.value names = .ok v) : (AsmOp.divc a d).assemble names = .ok (.divu v (foldParams d)) := by
  simp only [AsmOp.assemble, expandFolded, divcDivisor_of_lt hpos hlt]
  exact assembleDivu_of_ok ha (value_pair_toNat names _)

/-- A name bound to SYNTH's response holds its params (R70). -/
theorem bindResponse_synth {d : Word} {p : Params} (h : synthesize d = .ok p) (names : HostNames) (P : HostName) :
    names.bindResponse (some P) (respond (.synth d)) = .ok ((P, .params p) :: names) := by
  rw [respond, synthResponse_of_ok h]
  rfl

end Sys2Proof.Machine

/-! The obligations of 30_encoding.md: ignored fields (R65), decoding (R63, R66), the fields of a response (R67) and DIVC (R71). -/

namespace Sys2Proof.Machine

/-- Settles O11: bits 33:0 fix the decoded instruction of every row but DIVU. -/
theorem ignoredFieldsHaveNoEffect : Obligations.IgnoredFieldsHaveNoEffect :=
  ⟨fun _ _ hlow hop => congrArg respond (decode_eq_of_low_bits_eq hlow hop),
    fun _ => decode_of_op_lzc, fun _ => decode_of_op_synth, fun _ h => ⟨_, decode_of_op_divu h⟩⟩

/-- Settles O12: one lemma per row of the opcode table. -/
theorem everyBundleDecodes : Obligations.EveryBundleDecodes :=
  ⟨rfl, fun _ => ⟨decode_of_op_lzc, decode_of_op_synth, decode_of_op_divu, decode_of_op_reserved⟩⟩

/-- Settles O16: each outcome of SYNTH and DIVU picks its response, and the fields of the RSP bundle read back one by one. -/
theorem responseFieldsByOutcome : Obligations.ResponseFieldsByOutcome := by
  refine ⟨fun _ => rfl, fun a ha => ?synth, rfl, fun a p hp => ?divu, fun a p hp => ?invalid, rfl,
    fun rsp => ⟨fun hr => ?readR, fun hp => ?readP⟩, fun rsp u => ⟨fun hr => ?wireR, fun hp => ?wireP⟩⟩
  case synth =>
    obtain ⟨p, hp⟩ := exists_synthesize_eq_ok ha
    exact ⟨p, hp, synthResponse_of_ok hp⟩
  case divu => exact ⟨_, divide_of_admissible a hp, divuResponse_of_admissible a hp⟩
  case invalid => exact divuResponse_of_not_admissible a hp
  case readR => simp [Response.readR, hr]
  case readP => simp [Response.readP, hp]
  case wireR => rw [extract_r_wire, hr, Option.getD_none]
  case wireP => rw [extract_p_wire, hp, Option.getD_none, packParams_unpackParams]

/-- Settles O42: the folded pair is SYNTH's (R108), so the literal pair and the name bound to SYNTH's response stand for the same params. -/
theorem divcExpansionsAgree : Obligations.DivcExpansionsAgree := by
  refine ⟨fun names bind P a d v hpos hlt hne ha => ?_, fun _ _ _ _ => ⟨rfl, rfl⟩⟩
  have hd : (BitVec.ofNat 32 d).toNat = d := by
    rw [BitVec.toNat_ofNat, Nat.mod_eq_of_lt hlt]
  have hsynth : synthesize (BitVec.ofNat 32 d) = .ok (foldParams d) := by
    rw [synthesize_eq_ok_foldParams (by bv_omega), hd]
  refine ⟨foldParams d, (P, .params (foldParams d)) :: names, assemble_divc hpos hlt ha, hsynth, ?unfolded, ?synthLine,
    bindResponse_synth hsynth names P, ?divuLine⟩
  case unfolded => rw [expandUnfolded, divcDivisor_of_lt hpos hlt]
  case synthLine => rw [AsmOp.assemble, value_num_of_lt names hlt, Except.map]
  case divuLine =>
    exact assembleDivu_of_ok ((value_cons_of_ne hne _ names).trans ha) (value_name_cons_params P _ names)

end Sys2Proof.Machine

/-! Where the highest set bit of a nonzero word is (40_leading_zero_count.md R80, R83). -/

namespace Sys2Proof.Machine

/-- The binary digits of a positive number run from bit 0 to bit `floor(log2 n)`. -/
theorem size_eq_log2_add_one {n : Nat} (hn : n ≠ 0) : Nat.size n = Nat.log2 n + 1 :=
  le_antisymm (Nat.size_le.2 Nat.lt_log2_self) (Nat.lt_size.2 (Nat.log2_self_le hn))

/-- The highest set bit of a nonzero word is one of its 32. -/
theorem log2_toNat_lt {x : Word} (hx : x ≠ 0#32) : Nat.log2 x.toNat < 32 :=
  (Nat.log2_lt (toNat_pos_of_ne_zero hx).ne').2 x.isLt

/-- R80 in closed form, for a nonzero word. -/
theorem lzc_of_ne_zero {x : Word} (hx : x ≠ 0#32) : lzc x = 31 - Nat.log2 x.toNat := by
  rw [lzc_eq_sub_size, size_eq_log2_add_one (toNat_pos_of_ne_zero hx).ne']
  omega

/-- R80 in closed form, zero included. -/
theorem lzc_eq_ite (x : Word) : lzc x = if x = 0#32 then 32 else 31 - Nat.log2 x.toNat := by
  split
  next hx => rw [hx]; rfl
  next hx => exact lzc_of_ne_zero hx

/-- The count leaves the index of the highest set bit, and so the logarithm (R83). -/
theorem sub_lzc_eq_log2 {x : Word} (hx : x ≠ 0#32) : 31 - lzc x = Nat.log2 x.toNat := by
  have := log2_toNat_lt hx
  rw [lzc_of_ne_zero hx]
  omega

theorem lzc_le (x : Word) : lzc x ≤ 32 :=
  lzcLoop_le x 32 0

/-- Zero is the one word with no bit set, so the one whose count is 32. -/
theorem lzc_lt_iff (x : Word) : lzc x < 32 ↔ x ≠ 0#32 := by
  constructor
  · rintro h rfl
    exact h.ne rfl
  · intro hx
    rw [lzc_of_ne_zero hx]
    omega

/-- The word fits in the bits that are not counted. -/
theorem toNat_lt_two_pow_sub_lzc (x : Word) : x.toNat < 2 ^ (32 - lzc x) := by
  rw [lzc_eq_sub_size, Nat.sub_sub_self (size_toNat_le x)]
  exact Nat.lt_size_self _

/-- The counted bits, from the top down, are zero. -/
theorem getLsbD_of_sub_lzc_le {x : Word} {i : Nat} (h : 32 - lzc x ≤ i) : x.getLsbD i = false :=
  Nat.testBit_lt_two_pow ((toNat_lt_two_pow_sub_lzc x).trans_le (Nat.pow_le_pow_right two_pos h))

/-- The bit at which the count stops is one. -/
theorem getLsbD_sub_lzc {x : Word} (hx : x ≠ 0#32) : x.getLsbD (31 - lzc x) = true := by
  rw [sub_lzc_eq_log2 hx]
  exact Nat.testBit_log2 (toNat_pos_of_ne_zero hx).ne'

/-- An OK response records no fault (R170): its answer is all that it adds. -/
theorem deliver_of_status_ok (s : State) {x : Response} (h : x.status = .ok) : s.deliver x = s.withAnswer x := by
  simp [State.deliver, State.record, State.withAnswer, h]

end Sys2Proof.Machine

/-! The obligations of 40_leading_zero_count.md: the count (R80), its bounds (R83) and the operation (R81). -/

namespace Sys2Proof.Machine

/-- Settles O18: the count is 32 less the binary digits, whose highest is the set bit of largest index. -/
theorem lzcCountsLeadingZeros : Obligations.LzcCountsLeadingZeros :=
  ⟨fun x => ⟨lzc_le x, fun _ => getLsbD_of_sub_lzc_le, fun h => getLsbD_sub_lzc ((lzc_lt_iff x).1 h)⟩,
    fun _ => lzc_of_ne_zero, rfl, rfl, rfl⟩

/-- Settles O19: `31 - n` is `floor(log2 x)`. -/
theorem lzcBoundsItsOperand : Obligations.LzcBoundsItsOperand := by
  intro x hx
  have hlt := (lzc_lt_iff x).2 hx
  refine ⟨by omega, ?lower, toNat_lt_two_pow_sub_lzc x, getLsbD_sub_lzc hx,
    fun i hi => getLsbD_of_sub_lzc_le (by omega)⟩
  case lower =>
    rw [sub_lzc_eq_log2 hx]
    exact Nat.log2_self_le (toNat_pos_of_ne_zero hx).ne'

/-- Settles O20: LZC delivers its count, in closed form, with status OK. -/
theorem lzcAnswersTheCount : Obligations.LzcAnswersTheCount := by
  refine ⟨fun _ => decode_of_op_lzc, fun a s => ?_⟩
  rw [← lzc_eq_ite, exec_eq_deliver, deliver_of_status_ok s rfl]
  rfl

end Sys2Proof.Machine

/-! The params SYNTH answers, read back from the pair (41_param_synthesizer.md R102 to R107): which divisors have which shift, and what the multiplier is in each row of R107. -/

namespace Sys2Proof.Machine

/-- A shift covers a divisor exactly from `ceil(log2 d)` on. -/
theorem synthShift_le_iff {d : Word} (hd : d ≠ 0#32) (k : Nat) : synthShift d ≤ k ↔ d.toNat ≤ 2 ^ k := by
  rw [synthShift_eq_clog hd]
  exact Nat.clog_le_iff_le_pow one_lt_two

/-- The full multiplier is a ceiling: the least number whose product with the divisor reaches `2^(32+sh)` (R104). -/
theorem synthFull_le_iff {d : Word} (hd : d ≠ 0#32) (sh k : Nat) :
    synthFull sh d ≤ k ↔ 2 ^ (32 + sh) ≤ k * d.toNat := by
  have hpos := toNat_pos_of_ne_zero hd
  rw [← Nat.lt_succ_iff, synthFull, Nat.div_lt_iff_lt_mul hpos, synthNum, Nat.succ_mul]
  omega

/-- The multiplier of the pseudocode, as a number (R106). -/
theorem synthMul_eq_ofNat (sh : Nat) (d : Word) :
    synthMul sh d = BitVec.ofNat 32 (if sh = 32 then d.toNat else synthFull sh d % 2 ^ 32) := by
  unfold synthMul
  split
  · rw [BitVec.ofNat_toNat, BitVec.setWidth_eq]
  · exact BitVec.eq_of_toNat_eq (by simp)

/-- The shift of the pseudocode (R106). -/
theorem synthShift_eq_sub_lzc_add (d : Word) :
    synthShift d = (31 - lzc d) + (if d &&& (d - 1#32) = 0#32 then 0 else 1) := by
  simp [synthShift, synthBase, isPowerOfTwo]

/-- The general regime is what R132 leaves: every shift but 32 and 0. -/
theorem regime_eq_general {p : Params} (h0 : p.sh ≠ 0#6) (h32 : p.sh ≠ 32#6) : regime p = .general := by
  rw [regime, if_neg h32, if_neg fun h => h0 h.2]

section
variable {d : Word} {p : Params}

theorem ne_zero_of_synthesize_eq_ok (h : synthesize d = .ok p) : d ≠ 0#32 :=
  ((synthesize_eq_ok_iff d p).1 h).1

/-- The shift fits its 6-bit field (R111). -/
theorem toNat_sh_of_synthesize_eq_ok (h : synthesize d = .ok p) : p.sh.toNat = synthShift d := by
  obtain ⟨hd, rfl⟩ := (synthesize_eq_ok_iff d p).1 h
  have := synthShift_le hd
  exact Nat.mod_eq_of_lt (by omega)

/-- The one divisor with shift 0 is 1 (R105). -/
theorem sh_eq_zero_iff (h : synthesize d = .ok p) : p.sh = 0#6 ↔ d = 1#32 := by
  have hd := ne_zero_of_synthesize_eq_ok h
  have hsh := toNat_sh_of_synthesize_eq_ok h
  have hle := synthShift_le_iff hd 0
  constructor
  · bv_omega
  · rintro rfl
    bv_omega

/-- Shift 32 marks the divisors from `0x80000001` on (R103). -/
theorem sh_eq_thirtyTwo_iff (h : synthesize d = .ok p) : p.sh = 32#6 ↔ 0x80000001 ≤ d.toNat := by
  have hd := ne_zero_of_synthesize_eq_ok h
  have hsh := toNat_sh_of_synthesize_eq_ok h
  have hle := synthShift_le_iff hd 31
  have hmax := synthShift_le hd
  constructor <;> bv_omega

/-- With shift 32 the params are the divisor itself (R103). -/
theorem params_of_thirtyTwo (h : synthesize d = .ok p) (h32 : p.sh = 32#6) : p = { sh := 32#6, mul := d } :=
  Except.ok.inj (h.symm.trans (synthesize_of_ge ((sh_eq_thirtyTwo_iff h).1 h32)))

/-- With any other shift the multiplier is the full one less `2^32` (R104). -/
theorem toNat_mul_add_eq_synthFull (h : synthesize d = .ok p) (h32 : p.sh ≠ 32#6) :
    p.mul.toNat + 2 ^ 32 = synthFull p.sh.toNat d := by
  have hd := ne_zero_of_synthesize_eq_ok h
  have hsh := toNat_sh_of_synthesize_eq_ok h
  have h32' : synthShift d ≠ 32 := by bv_omega
  obtain ⟨-, rfl⟩ := (synthesize_eq_ok_iff d p).1 h
  rw [hsh, synthFull_eq_add_toNat_synthMul hd h32', Nat.add_comm]

/-- Divisor 1 has the pair `(0, 0)`, and no other divisor has it (R105). -/
theorem params_eq_zero_iff (h : synthesize d = .ok p) : p = { sh := 0#6, mul := 0#32 } ↔ d = 1#32 := by
  constructor
  · rintro rfl
    exact (sh_eq_zero_iff h).1 rfl
  · rintro rfl
    exact Except.ok.inj (h.symm.trans (synthesize_of_toNat_eq_two_pow (j := 0) rfl))

/-- R107: the multiplier is zero exactly for the powers of two. -/
theorem mul_eq_zero_iff (h : synthesize d = .ok p) : p.mul = 0#32 ↔ ∃ j, d.toNat = 2 ^ j := by
  have hd := ne_zero_of_synthesize_eq_ok h
  constructor
  · intro hmul
    have h32 : p.sh ≠ 32#6 := fun h32 => by
      rw [params_of_thirtyTwo h h32] at hmul
      exact hd hmul
    have hfull : synthFull p.sh.toNat d = 2 ^ 32 := by
      rw [← toNat_mul_add_eq_synthFull h h32, hmul]
      rfl
    have hge := (synthFull_le_iff hd p.sh.toNat _).1 hfull.le
    have hle := (synthShift_le_iff hd _).1 (toNat_sh_of_synthesize_eq_ok h).ge
    rw [pow_add] at hge
    exact ⟨p.sh.toNat, le_antisymm hle (Nat.le_of_mul_le_mul_left hge (by decide))⟩
  · rintro ⟨j, hj⟩
    rw [← Except.ok.inj ((synthesize_of_toNat_eq_two_pow hj).symm.trans h)]

/-- R109: what SYNTH answers, DIVU admits. -/
theorem admissible_of_synthesize_eq_ok (h : synthesize d = .ok p) : admissible p = true := by
  have hle : p.sh.toNat ≤ 32 := by
    rw [toNat_sh_of_synthesize_eq_ok h]
    exact synthShift_le (ne_zero_of_synthesize_eq_ok h)
  have hzero : p.sh = 0#6 → p.mul = 0#32 := fun h0 => by
    rw [(params_eq_zero_iff h).2 ((sh_eq_zero_iff h).1 h0)]
  simpa [admissible, hle, or_iff_not_imp_left] using hzero

/-- Every output of SYNTH but the two special pairs has a shift of the general regime (R107, R109). -/
theorem general_bounds (h : synthesize d = .ok p) (h0 : p.sh ≠ 0#6) (h32 : p.sh ≠ 32#6) :
    1 ≤ p.sh.toNat ∧ p.sh.toNat ≤ 31 ∧ 2 ≤ d.toNat ∧ d.toNat ≤ 0x80000000 := by
  have hd := ne_zero_of_synthesize_eq_ok h
  have hd1 := mt (sh_eq_zero_iff h).2 h0
  have hlt := mt (sh_eq_thirtyTwo_iff h).2 h32
  have hle := synthShift_le hd
  rw [← toNat_sh_of_synthesize_eq_ok h] at hle
  bv_omega

end

end Sys2Proof.Machine

/-! The obligations of 41_param_synthesizer.md: the operation (R106), the multiplier (R104), the closed form (R107), folding (R108) and the invariants of the params (R109). -/

namespace Sys2Proof.Machine

/-- Settles O22: SYNTH delivers DOMAIN_ERROR for 0 and else the pair of the pseudocode. -/
theorem synthAnswersParams : Obligations.SynthAnswersParams := by
  refine ⟨fun _ => decode_of_op_synth, fun _ => rfl, fun d s hd => ?_⟩
  have hok := (synthesize_eq_ok_iff d _).2 ⟨hd, rfl⟩
  rw [exec_eq_deliver, respond, synthResponse_of_ok hok, deliver_of_status_ok s rfl, synthMul_eq_ofNat,
    synthShift_eq_sub_lzc_add]
  rfl

/-- Settles O24: the full multiplier is the least number that reaches `2^(32+sh)`, and bit 32 is its highest. -/
theorem synthMultiplierIsTruncated : Obligations.SynthMultiplierIsTruncated := by
  intro d p h hsh num full
  have hd := ne_zero_of_synthesize_eq_ok h
  have hshift := toNat_sh_of_synthesize_eq_ok h
  have hmul : p.mul.toNat + 2 ^ 32 = full := toNat_mul_add_eq_synthFull h (by bv_omega)
  have hbounds : 2 ^ 32 ≤ full ∧ full < 2 ^ 33 := by
    have := synthFull_bounds hd
    rwa [← hshift] at this
  have hleast (k : Nat) : full ≤ k ↔ 2 ^ (32 + p.sh.toNat) ≤ k * d.toNat := synthFull_le_iff hd _ k
  have hdivisor : d.toNat ≤ 2 ^ 31 := (synthShift_le_iff hd 31).1 (hshift ▸ hsh)
  obtain ⟨hlo, hhi⟩ := hbounds
  refine ⟨?num, (hleast full).1 le_rfl, lt_of_not_ge (mt (hleast (full - 1)).2 (by omega)), hlo, hhi,
    by omega, by omega, ?one⟩
  case num =>
    have : 2 ^ (32 + p.sh.toNat) ≤ 2 ^ 63 := Nat.pow_le_pow_right two_pos (by omega)
    exact Nat.sub_le_sub_right (Nat.add_le_add this hdivisor) 1
  case one =>
    intro h1
    rw [← hmul, (params_eq_zero_iff h).2 h1]
    rfl

/-- Settles O23: one lemma per column of R107, then the rows by the range of the divisor. -/
theorem synthClosedForm : Obligations.SynthClosedForm := by
  refine ⟨fun d p h => ?_, fun _ _ _ => eq_of_synthesize_eq_ok,
    fun d d' sh _ hsh hd hlt hle => fullMultiplier_lt_of_lt (by omega) hd hlt hle⟩
  have hd := ne_zero_of_synthesize_eq_ok h
  have hshift := toNat_sh_of_synthesize_eq_ok h
  refine ⟨hshift.trans (synthShift_eq_clog hd), fun h1 => ?one, fun j hj hj' hpow => ?power, fun hlo hhi hpow => ?other,
    fun hge => ?compare, mul_eq_zero_iff h, sh_eq_zero_iff h⟩
  case one =>
    obtain rfl := (params_eq_zero_iff h).2 h1
    exact ⟨rfl, rfl⟩
  case power =>
    obtain rfl := Except.ok.inj (h.symm.trans (synthesize_of_toNat_eq_two_pow hpow))
    have hsh : (BitVec.ofNat 6 j).toNat = j := Nat.mod_eq_of_lt (by omega)
    exact ⟨hsh, rfl, regime_eq_general (by bv_omega) (by bv_omega)⟩
  case other =>
    have h0 : p.sh ≠ 0#6 := mt (sh_eq_zero_iff h).1 (by bv_omega)
    have h32 : p.sh ≠ 32#6 := mt (sh_eq_thirtyTwo_iff h).1 (by omega)
    obtain ⟨-, hsh, -, -⟩ := general_bounds h h0 h32
    have hmul : p.mul ≠ 0#32 := mt (mul_eq_zero_iff h).1 (by simpa using hpow)
    have htwo : d.toNat ≠ 2 := hpow 1
    have hsh2 := synthShift_le_iff hd 1
    exact ⟨by omega, hsh, toNat_pos_of_ne_zero hmul, regime_eq_general h0 h32, toNat_mul_add_eq_synthFull h h32⟩
  case compare =>
    obtain rfl := params_of_thirtyTwo h ((sh_eq_thirtyTwo_iff h).2 hge)
    exact ⟨rfl, rfl⟩

/-- Settles O26: the shift tells the two special pairs from the general reciprocals. -/
theorem synthOutputsMeetParamsInvariants : Obligations.SynthOutputsMeetParamsInvariants := by
  refine fun d p h => ⟨admissible_of_synthesize_eq_ok h, sh_eq_thirtyTwo_iff h, fun h32 => ?compare,
    params_eq_zero_iff h, fun h32 hne => ?general⟩
  case compare => exact congrArg Params.mul (params_of_thirtyTwo h h32)
  case general =>
    have h0 : p.sh ≠ 0#6 := fun h0 => hne ((params_eq_zero_iff h).2 ((sh_eq_zero_iff h).1 h0))
    obtain ⟨hpos, hsh, hlo, hhi⟩ := general_bounds h h0 h32
    exact ⟨hpos, hsh, hlo, hhi, toNat_mul_add_eq_synthFull h h32⟩

/-- Settles O43: the folded pair is SYNTH's for every divisor but 0, for which neither has params. -/
theorem foldedParamsEqualSynth : Obligations.FoldedParamsEqualSynth := by
  refine ⟨fun _ => synthesize_eq_ok_foldParams, fun d => ?_⟩
  by_cases hd : d = 0#32
  · subst hd
    rfl
  · simp only [paramsFor, if_neg hd, synthResponse_of_ok (synthesize_eq_ok_foldParams hd)]
    rfl

end Sys2Proof.Machine

/-! What DIVU computes, as natural numbers (42_divider.md R131 to R135): the admission check, one lemma per regime, and each step of the general regime without wrap. -/

namespace Sys2Proof.Machine

/-- What DIVU admits (R131): a shift within 0..32, and with shift 0 no multiplier. -/
theorem admissible_iff (p : Params) : admissible p = true ↔ p.sh.toNat ≤ 32 ∧ (p.sh = 0#6 → p.mul = 0#32) := by
  simp [admissible, imp_iff_not_or]

theorem regime_of_thirtyTwo {p : Params} (h : p.sh = 32#6) : regime p = .compare := if_pos h

theorem regime_of_zero {p : Params} (h : p.mul = 0#32 ∧ p.sh = 0#6) : regime p = .identity := by
  have h32 : p.sh ≠ 32#6 := by simp [h]
  rw [regime, if_neg h32, if_pos h]

theorem regime_of_neither {p : Params} (h32 : p.sh ≠ 32#6) (h0 : ¬ (p.mul = 0#32 ∧ p.sh = 0#6)) :
    regime p = .general := by
  rw [regime, if_neg h32, if_neg h0]

/-- The upper word of the product, as a number (R135). -/
theorem toNat_hi32_product (x y : Word) : (hi32 (product x y)).toNat = x.toNat * y.toNat / 2 ^ 32 := by
  rw [toNat_hi32, toNat_product]

/-- The upper part of a product with a multiplier of at most `2^32` is at most the other factor. -/
theorem mul_div_two_pow_le {mul : Nat} (hmul : mul ≤ 2 ^ 32) (v : Nat) : mul * v / 2 ^ 32 ≤ v :=
  Nat.div_le_of_le_mul (Nat.mul_le_mul_right v hmul)

/-- R135: `q ≤ v`, because a multiplier is below `2^32`. -/
theorem toNat_hi32_product_le (mul v : Word) : (hi32 (product mul v)).toNat ≤ v.toNat := by
  rw [toNat_hi32_product]
  exact mul_div_two_pow_le mul.isLt.le _

/-- R135: neither the difference nor the sum of the mean wraps. -/
theorem toNat_divideMean {v q : Word} (h : q.toNat ≤ v.toNat) :
    (divideMean v q).toNat = (v.toNat - q.toNat) / 2 + q.toNat := by
  have hv := v.isLt
  rw [divideMean, BitVec.toNat_add, BitVec.toNat_ushiftRight, BitVec.toNat_sub_of_le h, Nat.shiftRight_eq_div_pow]
  omega

/-- The final shift of R135 is a division by a power of two. -/
theorem toNat_divideGeneral (v : Word) (p : Params) : (divideGeneral v p).toNat =
    (divideMean v (hi32 (product p.mul v))).toNat / 2 ^ (p.sh.toNat - 1) := by
  rw [divideGeneral, BitVec.toNat_ushiftRight, Nat.shiftRight_eq_div_pow]

/-- Regime A as a number (R133). -/
theorem quotient_of_thirtyTwo (v : Word) {p : Params} (h : p.sh = 32#6) :
    quotient v p = BitVec.ofNat 32 (if p.mul.toNat ≤ v.toNat then 1 else 0) := by
  simp only [quotient, regime_of_thirtyTwo h, divideCompare, BitVec.le_def]
  split <;> rfl

/-- Regime B (R134). -/
theorem quotient_of_zero (v : Word) {p : Params} (h : p.mul = 0#32 ∧ p.sh = 0#6) : quotient v p = v := by
  simp only [quotient, regime_of_zero h]

/-- Regime C as a number (R135). -/
theorem quotient_of_neither (v : Word) {p : Params} (h32 : p.sh ≠ 32#6) (h0 : ¬ (p.mul = 0#32 ∧ p.sh = 0#6)) :
    quotient v p = BitVec.ofNat 32
      (((v.toNat - p.mul.toNat * v.toNat / 2 ^ 32) / 2 + p.mul.toNat * v.toNat / 2 ^ 32) / 2 ^ (p.sh.toNat - 1)) := by
  rw [← toNat_hi32_product, ← toNat_divideMean (toNat_hi32_product_le _ _), ← toNat_divideGeneral,
    BitVec.ofNat_toNat, BitVec.setWidth_eq]
  simp only [quotient, regime_of_neither h32 h0]

/-- The quotient of R136's pseudocode in natural numbers, each test on the operand fields as numbers. -/
theorem quotient_eq_ofNat (v : Word) (p : Params) : quotient v p = BitVec.ofNat 32
    (if p.sh.toNat = 32 then (if p.mul.toNat ≤ v.toNat then 1 else 0)
    else if p.mul.toNat = 0 ∧ p.sh.toNat = 0 then v.toNat
    else ((v.toNat - p.mul.toNat * v.toNat / 2 ^ 32) / 2 + p.mul.toNat * v.toNat / 2 ^ 32) /
      2 ^ (p.sh.toNat - 1)) := by
  have hsh32 : p.sh.toNat = 32 ↔ p.sh = 32#6 := BitVec.toNat_inj (y := 32#6)
  have hzero : p.mul.toNat = 0 ∧ p.sh.toNat = 0 ↔ p.mul = 0#32 ∧ p.sh = 0#6 :=
    and_congr (BitVec.toNat_inj (y := 0#32)) (BitVec.toNat_inj (y := 0#6))
  by_cases h32 : p.sh = 32#6
  · rw [quotient_of_thirtyTwo v h32, if_pos (hsh32.2 h32)]
  · rw [if_neg (mt hsh32.1 h32)]
    by_cases h0 : p.mul = 0#32 ∧ p.sh = 0#6
    · rw [quotient_of_zero v h0, if_pos (hzero.2 h0), BitVec.ofNat_toNat, BitVec.setWidth_eq]
    · rw [quotient_of_neither v h32 h0, if_neg (mt hzero.1 h0)]

end Sys2Proof.Machine

/-! Why the general regime divides (42_divider.md R137): its steps are one division of `full * v` by `2^(32+sh)`, and the excess of the rounded-up reciprocal is too small to reach the next quotient. -/

namespace Sys2Proof.Machine

/-- The mean and the final shift of R135 are one division of the 33-bit sum, the implicit bit 32 of the multiplier restored. -/
theorem mean_div_two_pow {mul v l : Nat} (hmul : mul ≤ 2 ^ 32) (hl : 1 ≤ l) :
    ((v - mul * v / 2 ^ 32) / 2 + mul * v / 2 ^ 32) / 2 ^ (l - 1) = (mul + 2 ^ 32) * v / 2 ^ (32 + l) := by
  have hq := mul_div_two_pow_le hmul v
  have hsum : (mul + 2 ^ 32) * v / 2 ^ 32 = mul * v / 2 ^ 32 + v := by
    rw [Nat.add_mul, Nat.add_mul_div_left _ _ (Nat.two_pow_pos 32)]
  have hmean : (v - mul * v / 2 ^ 32) / 2 + mul * v / 2 ^ 32 = (mul + 2 ^ 32) * v / 2 ^ 32 / 2 := by omega
  have hpow : 2 * 2 ^ (l - 1) = 2 ^ l := by rw [← Nat.pow_succ', Nat.succ_eq_add_one, Nat.sub_add_cancel hl]
  rw [hmean, Nat.div_div_eq_div_mul, hpow, Nat.div_div_eq_div_mul, pow_add]

/-- R137: multiplying by the reciprocal of `d`, rounded up to a multiple of `2^-(32+l)`, gives the quotient of every 32-bit dividend. -/
theorem mul_ceil_div_two_pow {full d l v : Nat} (hv : v < 2 ^ 32) (hle : d ≤ 2 ^ l)
    (hlo : 2 ^ (32 + l) ≤ full * d) (hhi : full * d < 2 ^ (32 + l) + d) : full * v / 2 ^ (32 + l) = v / d := by
  have hpos : 0 < d := by omega
  have hdiv := Nat.div_mul_le_self v d
  have hmod := Nat.lt_mul_div_succ v hpos
  refine Nat.div_eq_of_lt_le ?lower ?upper
  case lower =>
    calc v / d * 2 ^ (32 + l) ≤ v / d * (full * d) := Nat.mul_le_mul_left _ hlo
      _ = full * (v / d * d) := by ring
      _ ≤ full * v := Nat.mul_le_mul_left _ hdiv
  case upper =>
    have hexcess : (d - 1) * v < 2 ^ (32 + l) :=
      calc (d - 1) * v ≤ (d - 1) * 2 ^ 32 := Nat.mul_le_mul_left _ hv.le
        _ < 2 ^ l * 2 ^ 32 := Nat.mul_lt_mul_of_pos_right (by omega) (by decide)
        _ = 2 ^ (32 + l) := by rw [← pow_add, Nat.add_comm]
    refine Nat.lt_of_mul_lt_mul_right (a := d) ?_
    calc full * v * d = full * d * v := by ring
      _ ≤ (2 ^ (32 + l) + (d - 1)) * v := Nat.mul_le_mul_right _ (by omega)
      _ < 2 ^ (32 + l) * (v + 1) := by rw [Nat.add_mul, Nat.mul_succ]; omega
      _ ≤ 2 ^ (32 + l) * (d * (v / d + 1)) := Nat.mul_le_mul_left _ hmod
      _ = (v / d + 1) * 2 ^ (32 + l) * d := by ring

/-- Regime A, whose multiplier is the divisor: a quotient by more than half the range is 0 or 1 (R133). -/
theorem div_eq_ite_of_lt_two_mul {v d : Nat} (h : v < 2 * d) : v / d = if d ≤ v then 1 else 0 := by
  split
  next hle => exact Nat.div_eq_of_lt_le (by omega) (by omega)
  next hlt => exact Nat.div_eq_of_lt (by omega)

/-- The full multiplier exceeds the reciprocal by less than one unit (R104). -/
theorem synthFull_mul_lt {d : Word} (hd : d ≠ 0#32) (sh : Nat) :
    synthFull sh d * d.toNat < 2 ^ (32 + sh) + d.toNat := by
  have hnum : synthNum sh d < 2 ^ (32 + sh) + d.toNat :=
    Nat.sub_one_lt (Nat.add_pos_right _ (toNat_pos_of_ne_zero hd)).ne'
  exact (Nat.div_mul_le_self _ _).trans_lt hnum

/-- R137: with the params of `d` the regime R132 picks divides by `d`. -/
theorem quotient_of_synthesize_eq_ok {d : Word} {p : Params} (h : synthesize d = .ok p) (v : Word) :
    quotient v p = BitVec.ofNat 32 (v.toNat / d.toNat) := by
  have hv := v.isLt
  by_cases h32 : p.sh = 32#6
  · have hge := (sh_eq_thirtyTwo_iff h).1 h32
    rw [quotient_of_thirtyTwo v h32, params_of_thirtyTwo h h32, div_eq_ite_of_lt_two_mul (by omega)]
  · by_cases h0 : p.sh = 0#6
    · have hd := (sh_eq_zero_iff h).1 h0
      obtain rfl := (params_eq_zero_iff h).2 hd
      simp [quotient_of_zero v (p := { sh := 0#6, mul := 0#32 }) ⟨rfl, rfl⟩, hd]
    · obtain ⟨hsh, -, -, -⟩ := general_bounds h h0 h32
      have hd := ne_zero_of_synthesize_eq_ok h
      have hle := (synthShift_le_iff hd _).1 (toNat_sh_of_synthesize_eq_ok h).ge
      have hlo := (synthFull_le_iff hd p.sh.toNat _).1 le_rfl
      rw [quotient_of_neither v h32 fun hz => h0 hz.2, mean_div_two_pow p.mul.isLt.le hsh,
        toNat_mul_add_eq_synthFull h h32, mul_ceil_div_two_pow hv hle hlo (synthFull_mul_lt hd _)]

end Sys2Proof.Machine

/-! The obligations of 42_divider.md: the operation (R136), the dispatch (R132), the general regime (R135) and correctness (R137). -/

namespace Sys2Proof.Machine

/-- Settles O27: DIVU delivers INVALID_PARAMS or the quotient of its regime, each regime as a number. -/
theorem divuAnswersTheQuotient : Obligations.DivuAnswersTheQuotient := by
  refine ⟨fun _ => decode_of_op_divu, fun v p s hbad => ?invalid, fun v p s hsh hzero => ?quotient⟩
  case invalid =>
    have hadm : admissible p = false := by
      rw [← Bool.not_eq_true, admissible_iff]
      exact fun ⟨hsh, hzero⟩ => hbad.elim hsh.not_gt fun ⟨h0, hmul⟩ => hmul (hzero h0)
    rw [exec_eq_deliver, respond, divuResponse_of_not_admissible v hadm]
    rfl
  case quotient =>
    rw [exec_eq_deliver, respond, divuResponse_of_admissible v ((admissible_iff p).2 ⟨hsh, hzero⟩),
      deliver_of_status_ok s rfl, quotient_eq_ofNat]
    rfl

/-- Settles O28: shift 33 and above, and shift 0 with a multiplier, are what the admission check stops. -/
theorem regimesInOrder : Obligations.RegimesInOrder := by
  refine fun p => ⟨regime_of_thirtyTwo, fun _ => regime_of_zero, regime_of_neither, fun hadm hgen => ?_⟩
  obtain ⟨hsh, hzero⟩ := (admissible_iff p).1 hadm
  have h32 : p.sh ≠ 32#6 := fun h => by simp [regime_of_thirtyTwo h] at hgen
  have h0 : p.sh ≠ 0#6 := fun h => by simp [regime_of_zero ⟨hzero h, h⟩] at hgen
  bv_omega

/-- Settles O29: `q ≤ v` keeps the difference from wrapping, and the mean of `v` and `q` is at most `v`. -/
theorem generalRegimeNeverWraps : Obligations.GeneralRegimeNeverWraps := by
  intro v mul sh _ _ q
  have hq : q.toNat ≤ v.toNat := toNat_hi32_product_le mul v
  have hmean := toNat_divideMean hq
  exact ⟨toNat_product mul v, toNat_hi32_product mul v, hq, hmean, by omega, by omega, toNat_divideGeneral v _⟩

/-- Settles O30: synthesized params are admitted, and their regime divides by the divisor. -/
theorem divuBySynthIsDivision : Obligations.DivuBySynthIsDivision := fun _ _ h v => by
  rw [divide_of_admissible v (admissible_of_synthesize_eq_ok h), quotient_of_synthesize_eq_ok h]

end Sys2Proof.Machine

/-! Which request raises which status (60_exceptions.md R160, R162 to R165), one lemma per operation that can raise one. -/

namespace Sys2Proof.Machine

/-- What DIVU does not admit (R131, R163): a shift above 32, or shift 0 with a multiplier. -/
theorem admissible_eq_false_iff (p : Params) :
    admissible p = false ↔ 32 < p.sh.toNat ∨ (p.sh = 0#6 ∧ p.mul ≠ 0#32) := by
  rw [← Bool.not_eq_true, admissible_iff, not_and_or, not_le, Classical.not_imp]

/-- SYNTH's response to divisor 0 (R101, R162). -/
theorem synthResponse_zero : synthResponse 0#32 = Response.raise .domainError := rfl

/-- R162: SYNTH raises DOMAIN_ERROR, for divisor 0. -/
theorem synthResponse_status_eq_error_iff (a : Word) (e : ErrorStatus) :
    (synthResponse a).status = .error e ↔ e = .domainError ∧ a = 0#32 := by
  by_cases ha : a = 0#32
  · simp [ha, synthResponse_zero, Response.raise, eq_comm]
  · obtain ⟨p, hp⟩ := exists_synthesize_eq_ok ha
    simp [synthResponse_of_ok hp, Response.params, ha]

/-- R163: DIVU raises INVALID_PARAMS, for params that it does not admit. -/
theorem divuResponse_status_eq_error_iff (v : Word) (p : Params) (e : ErrorStatus) :
    (divuResponse v p).status = .error e ↔ e = .invalidParams ∧ admissible p = false := by
  cases hp : admissible p with
  | false => simp [divuResponse_of_not_admissible v hp, Response.raise, eq_comm]
  | true => simp [divuResponse_of_admissible v hp, Response.result]

/-- R165: the causes of the error statuses; LZC raises none. -/
theorem respond_status_eq_error_iff (i : Instr) (e : ErrorStatus) : (respond i).status = .error e ↔
    (e = .domainError ∧ i = .synth 0#32) ∨
    (e = .invalidParams ∧ ∃ a p, i = .divu a p ∧ (32 < p.sh.toNat ∨ (p.sh = 0#6 ∧ p.mul ≠ 0#32))) ∨
    (e = .illegalOp ∧ i = .reserved) := by
  cases i with
  | lzc a => simp [respond, lzcResponse, Response.result]
  | synth a => simp [respond, synthResponse_status_eq_error_iff]
  | divu a p => simp [respond, divuResponse_status_eq_error_iff, admissible_eq_false_iff]
  | reserved => simpa [respond, reservedResponse, Response.raise] using eq_comm

/-- R161: a response with an error status is what `raise` makes, so no data field carries a value. -/
theorem respond_eq_raise_of_status_eq_error {i : Instr} {e : ErrorStatus} (h : (respond i).status = .error e) :
    respond i = Response.raise e := by
  obtain ⟨rfl, rfl⟩ | ⟨rfl, a, p, rfl, hp⟩ | ⟨rfl, rfl⟩ := (respond_status_eq_error_iff i e).1 h
  · exact synthResponse_zero
  · exact divuResponse_of_not_admissible a ((admissible_eq_false_iff p).2 hp)
  · rfl

end Sys2Proof.Machine

/-! What a transition can do, and what it does to the recorded faults (60_exceptions.md R170, R175). -/

namespace Sys2Proof.Machine

/-- Whatever running an instruction answers, it returned the response to the request being served. -/
theorem eq_deliver_of_exec_eq_next {i : Instr} {s t : State} (h : exec i s = .next t) : t = s.deliver (respond i) :=
  (Host.Outcome.next.inj ((exec_eq_deliver i s).symm.trans h)).symm

/-- Serving a position where a request waits takes that request and answers it. -/
theorem serveAt_of_getElem? {s : State} {k : Nat} {q : Request} (h : s.waiting[k]? = some q) :
    serveAt k s =
      .next (({ s with waiting := s.waiting.eraseIdx k, serving := q } : State).deliver (respond (decode q.bundle))) := by
  simp [serveAt, takeAt_of_getElem? h, exec_eq_deliver]

/-- Everything a transition can do: nothing, one waiting request taken and answered, or one event from outside. -/
theorem transition_cases {s t : State} (h : Transition s t) :
    t = s ∨
    (∃ k q d, s.waiting[k]? = some q ∧
      t = ({ s with waiting := s.waiting.eraseIdx k, serving := q, draws := d } : State).deliver
        (respond (decode q.bundle))) ∨
    ∃ e, t = s.apply e := by
  cases h with
  | serve k h =>
    obtain ⟨-, hstay⟩ | ⟨q, hq, hserve⟩ := serveAt_cases k s
    · exact .inl (Host.Outcome.next.inj (h.symm.trans hstay))
    · exact .inr (.inl ⟨k, q, s.draws, hq, Host.Outcome.next.inj (h.symm.trans hserve)⟩)
  | host e h => exact .inr (.inr ⟨e, h⟩)
  | step h =>
    obtain ⟨-, hstay⟩ | ⟨k, q, d, hq, hserve⟩ := step_cases s
    · exact .inl (Host.Outcome.next.inj (h.symm.trans hstay))
    · exact .inr (.inl ⟨k, q, d, hq, Host.Outcome.next.inj (h.symm.trans hserve)⟩)

/-- No event from outside touches the recorded faults, a reset neither (R170). -/
@[simp] theorem State.apply_faults (s : State) (e : HostEvent) : (s.apply e).faults = s.faults := by
  cases e <;> rfl

/-- A transition adds to the recorded faults at most, at their end (R170). -/
theorem faults_prefix_of_transition {s t : State} (h : Transition s t) : s.faults <+: t.faults := by
  obtain rfl | ⟨k, q, d, -, rfl⟩ | ⟨e, rfl⟩ := transition_cases h
  · exact List.prefix_rfl
  · exact List.prefix_append _ _
  · rw [State.apply_faults]

/-- So does any number of transitions. -/
theorem faults_prefix_of_transitions {s t : State} (h : Relation.ReflTransGen Transition s t) :
    s.faults <+: t.faults := by
  induction h with
  | refl => exact List.prefix_rfl
  | tail _ hlast ih => exact ih.trans (faults_prefix_of_transition hlast)

end Sys2Proof.Machine

/-! The obligations of 60_exceptions.md: the statuses and their causes (R160, R165), the frame of every operation, the fault record (R170) and the reserved opcode (R164). -/

namespace Sys2Proof.Machine

/-- Settles O17: one lemma per operation says which status it raises and when, and an error response is what `raise` makes. -/
theorem statusCodesAndCauses : Obligations.StatusCodesAndCauses := by
  refine ⟨⟨rfl, rfl, rfl, rfl⟩, respond_status_eq_error_iff, fun i e h => ?_⟩
  rw [respond_eq_raise_of_status_eq_error h]
  exact ⟨rfl, rfl⟩

/-- Settles O36: every instruction delivers its response, which appends one answer and the faults of its status. -/
theorem execFrame : Obligations.ExecFrame := by
  intro i s t h
  obtain rfl := eq_deliver_of_exec_eq_next h
  exact ⟨rfl, rfl, rfl, rfl, rfl, respond i, rfl, fun hok => by simp [hok], fun e he => by simp [he]⟩

/-- Settles O37: serving a request whose response is an error appends its record, and every transition adds to the record at its end at most. -/
theorem faultsAreRecordedAndNeverCleared : Obligations.FaultsAreRecordedAndNeverCleared := by
  refine ⟨fun s t k q e hq he h => ?recorded, fun s t x h hx => (faults_prefix_of_transitions h).subset hx⟩
  case recorded =>
    obtain rfl := Host.Outcome.next.inj ((serveAt_of_getElem? hq).symm.trans h)
    simp [he]

/-- Settles O33: the reserved row of the decoder, and the delivery of ILLEGAL_OP with its record. -/
theorem reservedAnswersIllegalOp : Obligations.ReservedAnswersIllegalOp :=
  ⟨fun _ => decode_of_op_reserved, exec_eq_deliver .reserved⟩

end Sys2Proof.Machine

/-! A request cut off by a reset stays so (70_reset_and_hazards.md R192): the invariant that every transition keeps. A tag is given out once, so no later request can be mistaken for it. -/

namespace Sys2Proof.Machine

/-- A reset cut `q` off: it is stuck, and its tag, given out in the past, is that of no request waiting or answered. -/
structure State.CutOff (s : State) (q : Request) : Prop where
  stuck : q ∈ s.stuck
  given : q.ticket.tag < s.issued
  notWaiting : ∀ r ∈ s.waiting, r.ticket.tag ≠ q.ticket.tag
  notAnswered : ∀ ans ∈ s.answers, ans.request.ticket.tag ≠ q.ticket.tag

/-- A reset cuts off what waits and what earlier resets cut off: it leaves no request waiting and none answered. -/
theorem cutOff_resetEvent {s : State} {q : Request} (hq : q ∈ s.stuck ++ s.waiting) (hgiven : q.ticket.tag < s.issued) :
    s.resetEvent.CutOff q where
  stuck := hq
  given := hgiven
  notWaiting _ hr := absurd hr List.not_mem_nil
  notAnswered _ hans := absurd hans List.not_mem_nil

/-- A request sent later has a later tag. -/
theorem State.CutOff.send {s : State} {q : Request} (h : s.CutOff q) (n : Nat) (b : Bundle) : (s.send n b).CutOff q where
  stuck := h.stuck
  given := h.given.trans (Nat.lt_succ_self _)
  notWaiting := List.forall_mem_append.2 ⟨h.notWaiting, List.forall_mem_singleton.2 h.given.ne'⟩
  notAnswered := h.notAnswered

/-- The request that is served waited, so it is another one. -/
theorem State.CutOff.serve {s : State} {q r : Request} {k : Nat} (h : s.CutOff q) (hr : s.waiting[k]? = some r)
    (d : Nat) (rsp : Response) :
    (({ s with waiting := s.waiting.eraseIdx k, serving := r, draws := d } : State).deliver rsp).CutOff q where
  stuck := h.stuck
  given := h.given
  notWaiting _ hmem := h.notWaiting _ (List.mem_of_mem_eraseIdx hmem)
  notAnswered := List.forall_mem_append.2
    ⟨h.notAnswered, List.forall_mem_singleton.2 (h.notWaiting r (List.mem_of_getElem? hr))⟩

/-- No transition brings back a request that was cut off. -/
theorem State.CutOff.transition {s t : State} {q : Request} (h : s.CutOff q) (hst : Transition s t) : t.CutOff q := by
  obtain rfl | ⟨k, r, d, hr, rfl⟩ | ⟨e, rfl⟩ := transition_cases hst
  · exact h
  · exact h.serve hr d _
  · cases e with
    | send n b => exact h.send n b
    | reset => exact cutOff_resetEvent (List.mem_append_left _ h.stuck) h.given

/-- Nor does any number of transitions. -/
theorem State.CutOff.transitions {s t : State} {q : Request} (h : s.CutOff q)
    (hst : Relation.ReflTransGen Transition s t) : t.CutOff q := by
  induction hst with
  | refl => exact h
  | tail _ hlast ih => exact ih.transition hlast

/-- No returned response is for a request that was cut off. -/
theorem State.CutOff.ticket_ne {s : State} {q : Request} (h : s.CutOff q) :
    ∀ ans ∈ s.answers, ans.request.ticket ≠ q.ticket :=
  fun ans hans heq => h.notAnswered ans hans (congrArg Ticket.tag heq)

/-- Who waits for the response to a request that was cut off is stuck. -/
theorem State.CutOff.responseTo {s : State} {q : Request} (h : s.CutOff q) :
    s.responseTo q.ticket = .error .requesterStuck := by
  have hany : s.stuck.any (fun r => r.ticket == q.ticket) = true := List.any_eq_true.2 ⟨q, h.stuck, beq_self_eq_true _⟩
  rw [responseTo_of_unanswered h.ticket_ne, if_pos hany]

end Sys2Proof.Machine

/-! The obligations of 70_reset_and_hazards.md: the response side after reset (R191) and the requests pending at reset (R192). -/

namespace Sys2Proof.Machine

/-- Settles O3: the reset cuts the request off, its tag being below the next one by the invariant, and so it stays along every run. -/
theorem resetLeavesPendingUnanswered : Obligations.ResetLeavesPendingUnanswered := by
  intro s t q hinv hq hrun
  have hknown : q ∈ s.known := List.mem_append_left _ (List.mem_append_left _ hq)
  have hcut : t.CutOff q := (cutOff_resetEvent (List.mem_append_right _ hq) (hinv.fresh q hknown)).transitions hrun
  exact ⟨hcut.stuck, hcut.ticket_ne, hcut.responseTo⟩

/-- Settles O1: a response that can be read was returned, and a reset leaves none returned. -/
theorem resetLeavesNoResponse : Obligations.ResetLeavesNoResponse := by
  refine ⟨rfl, fun _ => rfl, fun s => ⟨s.resetEvent_answers, fun k rsp hread => ?_, s.send_answers⟩⟩
  obtain ⟨ans, hans, -⟩ := responseTo_ok hread
  exact absurd hans List.not_mem_nil

end Sys2Proof.Machine

/-! The invariant (10_state.md section 4, 60_exceptions.md R170): it holds after reset, and every transition keeps it. Serving a request moves it from the waiting to the answered ones, a send adds one with a new tag, and a reset forgets the answered ones. -/

namespace Sys2Proof.Machine

/-- Serving a request moves it from the waiting to the answered ones. -/
theorem known_serve_perm {s : State} {k : Nat} {q : Request} (hq : s.waiting[k]? = some q) (d : Nat) (rsp : Response) :
    (({ s with waiting := s.waiting.eraseIdx k, serving := q, draws := d } : State).deliver rsp).known.Perm s.known := by
  obtain ⟨hk, rfl⟩ := List.getElem?_eq_some_iff.1 hq
  have htake : (s.waiting[k] :: s.waiting.eraseIdx k).Perm s.waiting := List.getElem_cons_eraseIdx_perm hk
  simp only [State.known, State.deliver_waiting, State.deliver_stuck, State.deliver_answers, List.map_append,
    List.map_singleton, ← List.append_assoc]
  exact (List.perm_append_singleton _ _).trans ((htake.append_right _).append_right _)

/-- A send makes one request more known. -/
theorem known_send_perm (s : State) (n : Nat) (b : Bundle) :
    (s.send n b).known.Perm ({ ticket := { requester := n, tag := s.issued }, bundle := b } :: s.known) :=
  ((List.perm_append_singleton _ _).append_right _).append_right _

/-- A reset makes no request known. -/
theorem known_resetEvent_subperm (s : State) : s.resetEvent.known.Subperm s.known := by
  have hperm : s.resetEvent.known.Perm (s.waiting ++ s.stuck) := by
    simpa [State.known] using List.perm_append_comm
  exact hperm.subperm.trans (List.sublist_append_left _ _).subperm

/-- An error status leaves its record (R170). -/
theorem mem_runFaults {st : Status} {e : ErrorStatus} (h : st = .error e) (t : Ticket) :
    { ticket := t, cause := e } ∈ st.runFaults t := by
  simp [h]

section
variable {s : State}

/-- The request that is served gets its own response, and its fault is recorded. -/
theorem State.Inv.serve (h : s.Inv) {k : Nat} {q : Request} (hq : s.waiting[k]? = some q) (d : Nat) :
    (({ s with waiting := s.waiting.eraseIdx k, serving := q, draws := d } : State).deliver
      (respond (decode q.bundle))).Inv where
  answered := List.forall_mem_append.2 ⟨h.answered, List.forall_mem_singleton.2 rfl⟩
  fresh r hr := h.fresh r ((known_serve_perm hq d _).subset hr)
  distinct := ((known_serve_perm hq d _).map _).nodup_iff.2 h.distinct
  recorded := List.forall_mem_append.2
    ⟨fun ans hans e he => List.mem_append_left _ (h.recorded ans hans e he),
      List.forall_mem_singleton.2 fun _ he => List.mem_append_right _ (mem_runFaults he _)⟩

/-- The request that is sent has the next tag, which no known request has. -/
theorem State.Inv.send (h : s.Inv) (n : Nat) (b : Bundle) : (s.send n b).Inv where
  answered := h.answered
  fresh r hr := by
    obtain rfl | hr := List.mem_cons.1 ((known_send_perm s n b).subset hr)
    · exact Nat.lt_succ_self _
    · exact (h.fresh r hr).trans (Nat.lt_succ_self _)
  distinct := by
    refine ((known_send_perm s n b).map _).nodup_iff.2 (List.nodup_cons.2 ⟨fun hmem => ?_, h.distinct⟩)
    obtain ⟨r, hr, htag⟩ := List.mem_map.1 hmem
    exact (h.fresh r hr).ne htag
  recorded := h.recorded

/-- After a reset no response is there to speak of, and fewer requests are known. -/
theorem State.Inv.resetEvent (h : s.Inv) : s.resetEvent.Inv where
  answered := List.forall_mem_nil _
  fresh r hr := h.fresh r ((known_resetEvent_subperm s).subset hr)
  distinct := by
    obtain ⟨l, hperm, hsub⟩ := known_resetEvent_subperm s
    exact (hperm.map _).nodup_iff.1 (h.distinct.sublist (hsub.map _))
  recorded := List.forall_mem_nil _

/-- Every transition keeps the invariant. -/
theorem State.Inv.transition (h : s.Inv) {t : State} (hst : Transition s t) : t.Inv := by
  obtain rfl | ⟨k, q, d, hq, rfl⟩ | ⟨e, rfl⟩ := transition_cases hst
  · exact h
  · exact h.serve hq d
  · cases e with
    | send n b => exact h.send n b
    | reset => exact h.resetEvent

end

end Sys2Proof.Machine

/-! The obligations about the invariant: it holds after reset, and steps, service in any order and host events keep it (60_exceptions.md R175; 70_reset_and_hazards.md R190 to R192). -/

namespace Sys2Proof.Machine

/-- Settles O8: a step is a transition. -/
theorem stepKeepsInv : Obligations.StepKeepsInv := fun _ _ h hstep => h.transition (.step hstep)

/-- Settles O9: so are the service of a position and a host event. -/
theorem anyOrderAndHostEventsKeepInv : Obligations.AnyOrderAndHostEventsKeepInv :=
  fun _ h => ⟨fun k _ hserve => h.transition (.serve k hserve), fun e => h.transition (.host e rfl)⟩

/-- Settles O7: after reset no request is known and no response is there. -/
theorem resetMeetsInv : Obligations.ResetMeetsInv where
  answered := List.forall_mem_nil _
  fresh := List.forall_mem_nil _
  distinct := List.nodup_nil
  recorded := List.forall_mem_nil _

end Sys2Proof.Machine

/-! The bundles read back (20_memory.md R41; 30_encoding.md R60 to R64, R68): a REQ bundle is its fields, an encoded instruction decodes as itself, an RSP bundle holds the response, and stored bytes hold the bundle. -/

namespace Sys2Proof

/-- The fields of a REQ bundle are those it was put together from (R60). -/
theorem reqFields_reqBundle (f : ReqFields) : reqFields (reqBundle f) = f := by
  simp only [reqFields, reqBundle, extract_low, extract_mid, extract_high, unpackParams_packParams]

/-- A REQ bundle has no bits besides its fields (R60). -/
theorem reqBundle_reqFields (b : Bundle) : reqBundle (reqFields b) = b := by
  have hhigh : b.extractLsb' 34 38 ++ b.extractLsb' 2 32 = b.extractLsb' 2 70 :=
    BitVec.extractLsb'_append_extractLsb'_eq_extractLsb' rfl
  have hlow : b.extractLsb' 2 70 ++ b.extractLsb' 0 2 = b.extractLsb' 0 72 :=
    BitVec.extractLsb'_append_extractLsb'_eq_extractLsb' rfl
  simp only [reqBundle, reqFields, packParams_unpackParams]
  exact (congrArg (· ++ b.extractLsb' 0 2) hhigh).trans (hlow.trans BitVec.extractLsb'_eq_self)

/-- Every operand of an encoded instruction is where its row of the opcode table reads it (R63, R64). -/
theorem decode_encode (i : Instr) : decode (encode i) = i := by
  cases i with
  | lzc a => exact (decode_of_op_lzc (Laws.OpcodeField.lzc a)).trans (congrArg Instr.lzc (extract_mid _ a _))
  | synth a => exact (decode_of_op_synth (Laws.OpcodeField.synth a)).trans (congrArg Instr.synth (extract_mid _ a _))
  | divu a p =>
    rw [decode_of_op_divu (Laws.OpcodeField.divu a p), ← unpackParams_paramsField]
    exact congrArg₂ Instr.divu (extract_mid _ a _)
      ((congrArg unpackParams (extract_high _ a _)).trans (unpackParams_packParams p))
  | reserved => exact decode_of_op_reserved Laws.OpcodeField.reserved

/-- The low bytes of a number are as many as asked for. -/
theorem length_bytesOfNat (k n : Nat) : (bytesOfNat k n).length = k := by
  induction k generalizing n with
  | zero => rfl
  | succ k ih => rw [bytesOfNat, List.length_cons, ih]

/-- A number that fits in its bytes is read back from them. -/
theorem natOfBytes_bytesOfNat {k n : Nat} (h : n < 256 ^ k) : natOfBytes (bytesOfNat k n) = n := by
  induction k generalizing n with
  | zero => exact (Nat.lt_one_iff.1 h).symm
  | succ k ih =>
    have hdiv : n / 256 < 256 ^ k := Nat.div_lt_of_lt_mul (by rwa [← Nat.pow_succ'])
    have hbyte : (BitVec.ofNat 8 n).toNat = n % 256 := BitVec.toNat_ofNat n 8
    rw [bytesOfNat, natOfBytes, ih hdiv, hbyte, Nat.mod_add_div]

/-- A stored bundle is nine bytes (R68). -/
theorem length_storeBundle (o : ByteOrder) (b : Bundle) : (storeBundle o b).length = 9 := by
  cases o with
  | little => exact length_bytesOfNat 9 _
  | big => exact List.length_reverse.trans (length_bytesOfNat 9 _)

/-- The bundle is loaded back in the byte order in which it was stored (R41). -/
theorem loadBundle_storeBundle (o : ByteOrder) (b : Bundle) : loadBundle o (storeBundle o b) = .ok b := by
  have hread : BitVec.ofNat 72 (natOfBytes (bytesOfNat 9 b.toNat)) = b := by
    rw [natOfBytes_bytesOfNat b.isLt, BitVec.ofNat_toNat, BitVec.setWidth_eq]
  cases o with
  | little => exact (if_pos (length_storeBundle .little b)).trans (congrArg Except.ok hread)
  | big =>
    refine (if_pos (length_storeBundle .big b)).trans (congrArg Except.ok ?_)
    rw [storeBundle, List.reverse_reverse, hread]

/-- Any number of bytes but nine is no request (R68). -/
theorem loadBundle_of_length_ne (o : ByteOrder) {bs : List Byte} (h : bs.length ≠ 9) :
    loadBundle o bs = .error .notOneBundle :=
  if_neg h

end Sys2Proof

namespace Sys2Proof.Machine

/-- The status of a response is read back from its RSP bundle (R61, R160). -/
theorem statusOfCode_extract_wire (rsp : Response) (undriven : Bundle) :
    statusOfCode ((rsp.wire undriven).extractLsb' 0 2) = rsp.status :=
  (congrArg statusOfCode (extract_low _ _ _)).trans (statusOfCode_statusCode rsp.status)

/-- The params of a response that carries some are read back from its RSP bundle (R61, R67). -/
theorem unpackParams_extract_wire_params (p : Params) (undriven : Bundle) :
    unpackParams (((Response.params p).wire undriven).extractLsb' 34 38) = p := by
  rw [extract_p_wire]
  exact unpackParams_packParams p

/-- An error is read back as an error by every requester (R161). -/
theorem ofWire_wire_of_error (i : Instr) {rsp : Response} {e : ErrorStatus} (h : rsp.status = .error e) (undriven : Bundle) :
    Response.ofWire i (rsp.wire undriven) = Response.raise e := by
  simp only [Response.ofWire, statusOfCode_extract_wire, h]

/-- The requester of an LZC or a DIVU reads its result back (R67). -/
theorem ofWire_wire_result {i : Instr} (hi : (∃ a, i = .lzc a) ∨ ∃ a p, i = .divu a p) (r : Word) (undriven : Bundle) :
    Response.ofWire i ((Response.result r).wire undriven) = Response.result r := by
  obtain ⟨a, rfl⟩ | ⟨a, p, rfl⟩ := hi <;>
    simp [Response.ofWire, statusOfCode_extract_wire, extract_r_wire, Response.result]

/-- The requester of a SYNTH reads its params back (R67). -/
theorem ofWire_synth_wire_params (a : Word) (p : Params) (undriven : Bundle) :
    Response.ofWire (.synth a) ((Response.params p).wire undriven) = Response.params p := by
  simp only [Response.ofWire, statusOfCode_extract_wire, unpackParams_extract_wire_params]
  rfl

end Sys2Proof.Machine

/-! The obligations about encodings: instructions (30_encoding.md R63, R64), request fields (R60, R62), responses (R61, R67), stored bundles (20_memory.md R41; 30_encoding.md R68) and the worked encodings. -/

namespace Sys2Proof.Machine

/-- Settles O10: each row's lemma of the decoder reads the operands where the encoder puts them. -/
theorem decodeEncodeAgree : Obligations.DecodeEncodeAgree := decode_encode

/-- Settles O14: each field reads back, and the three fields cover the 72 bits. -/
theorem requestFieldsRoundTrip : Obligations.RequestFieldsRoundTrip := ⟨reqFields_reqBundle, reqBundle_reqFields⟩

/-- Settles O15: the status tells which fields carry a value, and those read back whatever the others show. -/
theorem responseBundleRoundTrip : Obligations.ResponseBundleRoundTrip := by
  intro i undriven
  cases i with
  | lzc a => exact ofWire_wire_result (.inl ⟨a, rfl⟩) _ undriven
  | synth a =>
    by_cases ha : a = 0#32
    · subst ha
      exact ofWire_wire_of_error _ rfl undriven
    · obtain ⟨p, hp⟩ := exists_synthesize_eq_ok ha
      rw [respond, synthResponse_of_ok hp, ofWire_synth_wire_params]
  | divu a p =>
    cases hp : admissible p with
    | true => rw [respond, divuResponse_of_admissible a hp, ofWire_wire_result (.inr ⟨a, p, rfl⟩)]
    | false => rw [respond, divuResponse_of_not_admissible a hp, ofWire_wire_of_error _ rfl]
  | reserved => exact ofWire_wire_of_error _ rfl undriven

/-- Settles O46: nine bytes hold every bit of a bundle, in either order. -/
theorem storedBundlesDecode : Obligations.StoredBundlesDecode :=
  ⟨fun o b => ⟨length_storeBundle o b, loadBundle_storeBundle o b⟩,
    fun b => by rw [decodeBytes, loadBundle_storeBundle], fun o _ h => by rw [decodeBytes, loadBundle_of_length_ne o h]⟩

/-- Settles O13: fixed words, decoded by evaluation. -/
theorem workedEncodingsDecode : Obligations.WorkedEncodingsDecode := by
  refine ⟨?_, ?_, ?_, ?_, ?_⟩ <;> decide

end Sys2Proof.Machine

/-! The bisection (40_leading_zero_count.md R82): each halving step keeps the count of zeros found and still to find, and leaves fewer than its width to find. -/

namespace Sys2Proof.Machine

/-- The counted zeros are at the top: `w` of them exactly when the bits from `32 - w` up are zero. -/
theorem le_lzc_iff {w : Nat} (hw : w ≤ 32) (x : Word) : w ≤ lzc x ↔ x.toNat < 2 ^ (32 - w) := by
  rw [lzc_eq_sub_size, ← Nat.size_le]
  have := size_toNat_le x
  omega

/-- Shifting out counted zeros of a nonzero word leaves the others to count. -/
theorem lzc_shiftLeft {x : Word} (hx : x ≠ 0#32) {w : Nat} (hw : w ≤ lzc x) : lzc (x <<< w) = lzc x - w := by
  have hw32 : w ≤ 32 := hw.trans (lzc_le x)
  have hfits : x.toNat <<< w < 2 ^ 32 := by
    have hlt := (le_lzc_iff hw32 x).1 hw
    rw [Nat.shiftLeft_eq]
    calc x.toNat * 2 ^ w < 2 ^ (32 - w) * 2 ^ w := Nat.mul_lt_mul_of_pos_right hlt (Nat.two_pow_pos w)
      _ = 2 ^ 32 := by rw [← pow_add, Nat.sub_add_cancel hw32]
  rw [lzc_eq_sub_size, lzc_eq_sub_size, BitVec.toNat_shiftLeft, Nat.mod_eq_of_lt hfits,
    Nat.size_shiftLeft (toNat_pos_of_ne_zero hx).ne', Nat.sub_sub]

/-- The bisection of `x` has fewer than `k` zeros left to count: what it has counted and what is left make up LZC(x). -/
structure Bisected (x : Word) (k : Nat) (nx : Nat × Word) : Prop where
  ne_zero : nx.2 ≠ 0#32
  total : nx.1 + lzc nx.2 = lzc x
  left : lzc nx.2 < k

/-- The test of a halving step asks for as many zeros as it is wide (R82). -/
theorem bisectStep_eq_ite {w : Nat} (hw : w ≤ 32) (nx : Nat × Word) :
    bisectStep w nx = if w ≤ lzc nx.2 then (nx.1 + w, nx.2 <<< w) else nx := by
  have htest : nx.2 >>> (32 - w) = 0#32 ↔ w ≤ lzc nx.2 := by
    rw [le_lzc_iff hw, ← BitVec.toNat_inj, BitVec.toNat_ushiftRight, Nat.shiftRight_eq_div_pow]
    exact Nat.div_eq_zero_iff_lt (Nat.two_pow_pos _)
  simp only [bisectStep, htest]

/-- A halving step halves the bound on what is left. -/
theorem Bisected.step {x : Word} {w : Nat} {nx : Nat × Word} (h : Bisected x (2 * w) nx) (hw : w ≤ 32) :
    Bisected x w (bisectStep w nx) := by
  obtain ⟨hne, htotal, hleft⟩ := h
  rw [bisectStep_eq_ite hw]
  split
  next hle =>
    have hlzc := lzc_shiftLeft hne hle
    exact ⟨(lzc_lt_iff _).1 (by dsimp only; omega), by dsimp only; omega, by dsimp only; omega⟩
  next hlt => exact ⟨hne, htotal, Nat.lt_of_not_le hlt⟩

/-- R82: the bisection gives the count of R80. -/
theorem lzcBisection_eq_lzc (x : Word) : lzcBisection x = lzc x := by
  by_cases hx : x = 0#32
  · rw [hx]
    rfl
  · have hstart : Bisected x (2 * 16) (0, x) := ⟨hx, Nat.zero_add _, (lzc_lt_iff x).2 hx⟩
    have h16 : Bisected x (2 * 8) _ := hstart.step (by decide)
    have h8 : Bisected x (2 * 4) _ := h16.step (by decide)
    have h4 : Bisected x (2 * 2) _ := h8.step (by decide)
    have h2 : Bisected x (2 * 1) _ := h4.step (by decide)
    have h1 : Bisected x 1 _ := h2.step (by decide)
    have htotal := h1.total
    have hleft := h1.left
    rw [lzcBisection, if_neg hx]
    omega

/-- R8, R82: both implementations give the count. -/
theorem lzcBy_eq_lzc (impl : LzcImpl) (x : Word) : lzcBy impl x = lzc x := by
  cases impl with
  | intrinsic => rfl
  | bisection => exact lzcBisection_eq_lzc x

end Sys2Proof.Machine

/-! Params that are no divisor's (10_state.md R26), reserved encodings (30_encoding.md R69), and names bound to nothing (70_reset_and_hazards.md R193). -/

namespace Sys2Proof.Machine

/-- Params of a shift other than 32 are synthesized only if some divisor has their full multiplier as its ceiling (R104). -/
theorem exists_divisor_of_synthesized {p : Params} (h : Synthesized p) (h32 : p.sh ≠ 32#6) :
    ∃ d : Nat, 2 ^ (32 + p.sh.toNat) ≤ (p.mul.toNat + 2 ^ 32) * d ∧
      (p.mul.toNat + 2 ^ 32) * d < 2 ^ (32 + p.sh.toNat) + d := by
  obtain ⟨d, hd⟩ := h
  have hne := ne_zero_of_synthesize_eq_ok hd
  rw [toNat_mul_add_eq_synthFull hd h32]
  exact ⟨d.toNat, (synthFull_le_iff hne _ _).1 le_rfl, synthFull_mul_lt hne _⟩

/-- Params of shift 32 are synthesized only with a multiplier from `0x80000001` on (R103). -/
theorem le_toNat_mul_of_synthesized {p : Params} (h : Synthesized p) (h32 : p.sh = 32#6) : 0x80000001 ≤ p.mul.toNat := by
  obtain ⟨d, hd⟩ := h
  rw [params_of_thirtyTwo hd h32]
  exact (sh_eq_thirtyTwo_iff hd).1 h32

/-- A DIVU line whose params have no value is refused as they are (R70, R193). -/
theorem assembleDivu_of_params_error {names : HostNames} {a : AsmArg} {p : AsmParams} {v : Word} {e : Refusal}
    (ha : a.value names = .ok v) (hp : p.value names = .error e) : assembleDivu names a p = .error e := by
  simp [assembleDivu, ha, hp]

/-- A name bound to nothing has no value as a params operand (R193). -/
theorem paramsValue_of_unbound {names : HostNames} {x : HostName} (h : names.lookup x = none) :
    (AsmParams.name x).value names = .error .unboundName := by
  simp [AsmParams.value, h]

/-- Nor as a dividend: an operand with a value is another one. -/
theorem ne_name_of_value_eq_ok {names : HostNames} {a : AsmArg} {v : Word} {x : HostName} (ha : a.value names = .ok v)
    (hx : names.lookup x = none) : a ≠ .name x := by
  rintro rfl
  simp [AsmArg.value, hx] at ha

end Sys2Proof.Machine

/-! The obligations about the operations together: the two counts (40_leading_zero_count.md R82), SYNTH before DIVU (42_divider.md R137, R138; 70_reset_and_hazards.md R193, R194) and the reserved encodings (30_encoding.md R69). -/

namespace Sys2Proof.Machine

/-- Settles O21: five halving steps leave fewer than one zero uncounted. -/
theorem bisectionAgreesWithCount : Obligations.BisectionAgreesWithCount :=
  ⟨lzcBisection_eq_lzc, lzcBy_eq_lzc, lzcBy_eq_lzc Config.lzcImpl⟩

/-- Settles O31: the params are admitted in every state, and the regime they pick divides by their divisor. -/
theorem synthThenDivuDivides : Obligations.SynthThenDivuDivides := by
  intro d s hd
  obtain ⟨p, hp⟩ := exists_synthesize_eq_ok hd
  refine ⟨p, ?synth, fun v t => ?divu⟩
  case synth =>
    rw [exec_eq_deliver, respond, synthResponse_of_ok hp, deliver_of_status_ok s rfl]
    rfl
  case divu =>
    rw [exec_eq_deliver, respond, divuResponse_of_admissible v (admissible_of_synthesize_eq_ok hp),
      quotient_of_synthesize_eq_ok hp, deliver_of_status_ok t rfl]
    rfl

/-- Settles O32: SYNTH's outputs are admitted and admitted params divide; the three pairs lie in no row of R107, two of them because no divisor meets the bounds of their ceiling. -/
theorem admissibleParamsNeedNotBeSynthesized : Obligations.AdmissibleParamsNeedNotBeSynthesized := by
  refine ⟨fun p ⟨d, hd⟩ => admissible_of_synthesize_eq_ok hd, fun v p hp => ⟨_, divide_of_admissible v hp⟩,
    fun h => ?compare, fun h => ?mulTooLarge, fun h => ?mulTooSmall, rfl, rfl, fun d h => ?zero⟩
  case compare => exact absurd (le_toNat_mul_of_synthesized h rfl) (by decide)
  case mulTooLarge =>
    obtain ⟨d, hlo, hhi⟩ := exists_divisor_of_synthesized h (by decide)
    norm_num at hlo hhi
    omega
  case mulTooSmall =>
    obtain ⟨d, hlo, hhi⟩ := exists_divisor_of_synthesized h (by decide)
    norm_num at hlo hhi
    omega
  case zero =>
    rw [Nat.zero_div] at h
    exact absurd h (by decide)

/-- Settles O34: DIVU's admission check lets through exactly what is no reserved encoding; LZC and SYNTH answer neither status. -/
theorem reservedEncodingsAreAnsweredWithErrors : Obligations.ReservedEncodingsAreAnsweredWithErrors := by
  intro i
  cases i with
  | lzc a => simp [Instr.wellFormed, respond, lzcResponse, Response.result]
  | synth a => simp [Instr.wellFormed, respond, synthResponse_status_eq_error_iff]
  | divu a p =>
    simp [Instr.wellFormed, respond, divuResponse_status_eq_error_iff, admissible_eq_not_reservedEncoding]
  | reserved => simp [Instr.wellFormed, respond, reservedResponse, Response.raise]

/-- Settles O44: before the binding the params operand has no value, so the dividend is another operand and the binding leaves it its value. -/
theorem divuWaitsForItsSynth : Obligations.DivuWaitsForItsSynth := by
  intro names a v x d ha hx hd
  obtain ⟨p, hp⟩ := exists_synthesize_eq_ok hd
  refine ⟨assembleDivu_of_params_error ha (paramsValue_of_unbound hx), (x, .params p) :: names, p,
    bindResponse_synth hp names x, hp, ?bound⟩
  case bound =>
    have ha' := (value_cons_of_ne (ne_name_of_value_eq_ok ha hx) (.params p) names).trans ha
    exact assembleDivu_of_ok ha' (value_name_cons_params x p names)

end Sys2Proof.Machine

/-! What a step does, by how many requests wait, and a run of steps (10_state.md R20; 60_exceptions.md R175; 70_reset_and_hazards.md R190). -/

namespace Sys2Proof.Machine

/-- Where requests wait, a step takes one of them. -/
theorem exists_step_eq_deliver {s : State} (h : s.waiting ≠ []) : ∃ k q d, s.waiting[k]? = some q ∧ step s =
    .next (({ s with waiting := s.waiting.eraseIdx k, serving := q, draws := d } : State).deliver
      (respond (decode q.bundle))) :=
  (step_cases s).resolve_left fun hstay => h hstay.1

/-- A step answers the request it takes, whole, and keeps the others waiting (R43). -/
theorem exists_step_answers_one {s : State} (h : s.waiting ≠ []) : ∃ k q t, s.waiting[k]? = some q ∧ step s = .next t ∧
    t.waiting = s.waiting.eraseIdx k ∧
    t.answers = s.answers ++ [{ request := q, rsp := respond (decode q.bundle) }] ∧
    t.stuck = s.stuck ∧ t.issued = s.issued := by
  obtain ⟨k, q, d, hq, hstep⟩ := exists_step_eq_deliver h
  exact ⟨k, q, _, hq, hstep, rfl, rfl, rfl, rfl⟩

/-- With one request waiting a step runs it, without a free choice (R11). -/
theorem step_of_singleton {s : State} {q : Request} (h : s.waiting = [q]) :
    step s = exec (decode q.bundle) { s with waiting := [], serving := q } := by
  have htake : s.takeNext = some { s with waiting := [], serving := q } := by
    simp only [State.takeNext, h]
  simp only [step, htake]

/-- So its response is the only new one, and nothing is left waiting. -/
theorem step_of_singleton_eq_deliver {s : State} {q : Request} (h : s.waiting = [q]) :
    step s = .next (({ s with waiting := [], serving := q } : State).deliver (respond (decode q.bundle))) :=
  (step_of_singleton h).trans (exec_eq_deliver _ _)

/-- A run of steps goes on from what its first step answers. -/
theorem core_run_succ_of_step {s t : State} (h : step s = .next t) (n : Nat) : core.run (n + 1) s = core.run n t := by
  have hcore : core.step s = .next t := h
  simp only [Host.Core.run, hcore]

/-- As many steps as requests wait answer each of them (R175). -/
theorem exists_run_answers_all {n : Nat} {s : State} (hn : s.waiting.length = n) :
    ∃ (t : State) (l : List Request), core.run n s = .next t ∧ t.waiting = [] ∧ l.Perm s.waiting ∧
      t.answers = s.answers ++ l.map (fun q => { request := q, rsp := respond (decode q.bundle) }) := by
  induction n generalizing s with
  | zero =>
    have hnil : s.waiting = [] := List.length_eq_zero_iff.1 hn
    exact ⟨s, [], rfl, hnil, by rw [hnil], by simp⟩
  | succ n ih =>
    obtain ⟨k, q, u, hq, hstep, hwaiting, hanswers, -, -⟩ :=
      exists_step_answers_one (List.ne_nil_of_length_eq_add_one hn)
    obtain ⟨hk, rfl⟩ := List.getElem?_eq_some_iff.1 hq
    have hlen : u.waiting.length = n := by
      rw [hwaiting, List.length_eraseIdx_of_lt hk, hn, Nat.add_sub_cancel]
    obtain ⟨t, l, hrun, hnil, hperm, hans⟩ := ih hlen
    rw [hwaiting] at hperm
    refine ⟨t, s.waiting[k] :: l, (core_run_succ_of_step hstep n).trans hrun, hnil,
      (hperm.cons _).trans (List.getElem_cons_eraseIdx_perm hk), ?_⟩
    rw [hans, hanswers, List.append_assoc, List.map_cons, List.singleton_append]

/-- A dutiful request gets an OK response (R100, R130, R193). -/
theorem respond_status_of_dutiful {i : Instr} (h : Dutiful i) : (respond i).status = .ok := by
  cases i with
  | lzc a => rfl
  | synth a =>
    obtain ⟨p, hp⟩ := exists_synthesize_eq_ok h
    rw [respond, synthResponse_of_ok hp]
    rfl
  | divu a p =>
    obtain ⟨d, hd⟩ := h
    rw [respond, divuResponse_of_admissible a (admissible_of_synthesize_eq_ok hd)]
    rfl
  | reserved => exact h.elim

/-- A recorded fault names the ticket of the request whose response was no OK (R170). -/
theorem eq_ticket_of_mem_runFaults {st : Status} {t : Ticket} {x : RunFault} (h : x ∈ st.runFaults t) :
    st ≠ .ok ∧ x.ticket = t := by
  cases st with
  | ok => exact absurd h List.not_mem_nil
  | error e => exact ⟨nofun, congrArg RunFault.ticket (List.mem_singleton.1 h)⟩

/-- A request that stops waiting was answered, or a reset cut it off (R192). -/
theorem answered_or_stuck_of_transition {s t : State} {q : Request} (h : Transition s t) (hq : q ∈ s.waiting)
    (hgone : q ∉ t.waiting) :
    ({ request := q, rsp := respond (decode q.bundle) } : Answer) ∈ t.answers ∨ q ∈ t.stuck := by
  obtain rfl | ⟨k, r, d, hr, rfl⟩ | ⟨e, rfl⟩ := transition_cases h
  · exact absurd hq hgone
  · obtain ⟨hk, rfl⟩ := List.getElem?_eq_some_iff.1 hr
    obtain rfl | hleft := List.mem_cons.1 ((List.getElem_cons_eraseIdx_perm hk).symm.subset hq)
    · exact .inl (List.mem_append_right _ (List.mem_singleton_self _))
    · exact absurd hleft hgone
  · cases e with
    | send n b => exact absurd (List.mem_append_left _ hq) hgone
    | reset => exact .inr (List.mem_append_right _ hq)

/-- A request that waits at one moment of a run and no longer at a later one stopped waiting at some moment between. -/
theorem exists_last_waiting {f : Nat → State} {q : Request} {n m : Nat} (hq : q ∈ (f n).waiting) (hle : n ≤ m)
    (hgone : q ∉ (f m).waiting) : ∃ k, n ≤ k ∧ q ∈ (f k).waiting ∧ q ∉ (f (k + 1)).waiting := by
  induction m, hle using Nat.le_induction with
  | base => exact absurd hq hgone
  | succ m hm ih =>
    by_cases hwaits : q ∈ (f m).waiting
    · exact ⟨m, hm, hwaits, hgone⟩
    · exact ih hwaits

end Sys2Proof.Machine

/-! The obligations about steps and runs: every step answers one request (20_memory.md R43; 60_exceptions.md R161, R175), order (R46), dutiful hosts (70_reset_and_hazards.md R193), the first step after reset (R190) and fairness (R198). -/

namespace Sys2Proof.Machine

/-- Settles O5: a step delivers the response to the request it takes. -/
theorem stepAnswersExactlyOneRequest : Obligations.StepAnswersExactlyOneRequest := fun _ => exists_step_answers_one

/-- Settles O6: every instruction delivers its response, and where nothing is taken the state stays. -/
theorem blockNeverStops : Obligations.BlockNeverStops := by
  refine ⟨fun i s => ⟨_, exec_eq_deliver i s⟩, fun s => ?step, fun k s => ?serve⟩
  case step =>
    obtain ⟨-, hstay⟩ | ⟨k, q, d, -, hstep⟩ := step_cases s
    · exact ⟨s, hstay⟩
    · exact ⟨_, hstep⟩
  case serve =>
    obtain ⟨-, hstay⟩ | ⟨q, -, hserve⟩ := serveAt_cases k s
    · exact ⟨s, hstay⟩
    · exact ⟨_, hserve⟩

/-- Settles O38: a fault that a transition adds is that of the request it serves, which for the dutiful host is answered OK. -/
theorem dutifulHostStaysFaultless : Obligations.DutifulHostStaysFaultless := by
  intro s t n hdutiful hfaultless hst x hx hn
  obtain rfl | ⟨k, q, d, hq, rfl⟩ | ⟨e, rfl⟩ := transition_cases hst
  · exact hfaultless x hx hn
  · obtain hold | hnew := List.mem_append.1 hx
    · exact hfaultless x hold hn
    · obtain ⟨herror, hticket⟩ := eq_ticket_of_mem_runFaults hnew
      have hrequester : q.ticket.requester = n := (congrArg Ticket.requester hticket).symm.trans hn
      exact herror (respond_status_of_dutiful (hdutiful q (List.mem_of_getElem? hq) hrequester))
  · rw [State.apply_faults] at hx
    exact hfaultless x hx hn

/-- Settles O39: by induction on the number of waiting requests, each step taking one. -/
theorem stepsDrainAllWaiting : Obligations.StepsDrainAllWaiting := fun _ => exists_run_answers_all rfl

/-- Settles O40: in each order, and alone, a request gets the response of its own bundle. -/
theorem orderOfServiceChangesNoResponse : Obligations.OrderOfServiceChangesNoResponse := by
  intro s q₁ q₂ hs
  have hfirst : s.waiting[0]? = some q₁ := by rw [hs]; rfl
  have hsecond : s.waiting[1]? = some q₂ := by rw [hs]; rfl
  have hthen₂ : (s.waiting.eraseIdx 0)[0]? = some q₂ := by rw [hs]; rfl
  have hthen₁ : (s.waiting.eraseIdx 1)[0]? = some q₁ := by rw [hs]; rfl
  exact ⟨respond (decode q₁.bundle), respond (decode q₂.bundle), _, _, _, _, _, _,
    serveAt_of_getElem? hfirst, serveAt_of_getElem? hthen₂, by simp,
    serveAt_of_getElem? hsecond, serveAt_of_getElem? hthen₁, by simp,
    step_of_singleton_eq_deliver rfl, rfl, step_of_singleton_eq_deliver rfl, rfl⟩

/-- Settles O41: fairness gives a moment at which the request no longer waits, so a transition at which it stops waiting. -/
theorem fairRunsAnswerEveryRequest : Obligations.FairRunsAnswerEveryRequest := by
  intro f hrun hfair n q hq
  obtain ⟨m, hle, hgone⟩ := hfair n q hq
  obtain ⟨k, hk, hwaits, hstops⟩ := exists_last_waiting hq hle hgone
  exact ⟨k + 1, Nat.lt_succ_of_le hk, answered_or_stuck_of_transition (hrun k) hwaits hstops⟩

/-- Settles O2: right after reset the request sent is the only one waiting, and there is no response before its own. -/
theorem resetReadyForAnyRequest : Obligations.ResetReadyForAnyRequest := by
  intro s n b hs
  have hempty : s.waiting = [] ∧ s.answers = [] := by
    obtain rfl | ⟨s₀, rfl⟩ := hs <;> exact ⟨rfl, rfl⟩
  obtain ⟨hwaiting, hanswers⟩ := hempty
  refine ⟨_, step_of_singleton_eq_deliver (by rw [State.send_waiting, hwaiting]; rfl), rfl, ?_⟩
  simp [hanswers]

/-- Settles O4: a step takes a request exactly when one waits, and runs it. -/
theorem stepRunsDecodedRequest : Obligations.StepRunsDecodedRequest := by
  refine ⟨fun s hs => ?idle, fun s hs => ?taken⟩
  case idle => simp only [step, (takeNext_eq_none_iff s).2 hs]
  case taken =>
    obtain ⟨k, q, d, hq, hstep⟩ := exists_step_eq_deliver hs
    exact ⟨k, q, d, hq, hstep.trans (exec_eq_deliver _ _).symm⟩

/-- Settles O45: the placed request is the only one waiting. -/
theorem placedRequestIsServedNext : Obligations.PlacedRequestIsServedNext := fun s nbits w =>
  step_of_singleton (s := s.withFetchWord nbits w) rfl

end Sys2Proof.Machine
